-- ==== Sys2Proof/Word.lean ====
section
/-! DEFINITION. The word types of the block and the fixed-length arrays of 00_scope.md R11. -/

namespace Sys2Proof

/-- A byte of the host window or of the sink port. -/
abbrev Byte := BitVec 8

/-- A 32-bit register or command word (00_scope.md R9, the host data width). -/
abbrev Word := BitVec 32

/-- A Sample: an integer in [−32768, 32767] stored as 16-bit two's complement (00_scope.md R11). -/
abbrev Sample := BitVec 16

/-- A transform coefficient: COEF_W = 32 bits, signed (41_transform_lowpass.md R121). -/
abbrev Coef := BitVec 32

/-- The Sample that stands at index `i` of an array, zero past its end. -/
abbrev nth {w : Nat} (xs : List (BitVec w)) (i : Nat) : BitVec w := xs.getD i 0

/-- An array of exactly `n` elements, read off a list (its first `n` entries). Every use in the model gives a
list of `n` entries, for which this is the list itself. -/
def fixed {w : Nat} (n : Nat) (xs : List (BitVec w)) : Vector (BitVec w) n :=
  ⟨⟨(List.range n).map (nth xs)⟩, by simp⟩

/-- `zeros(n)` as an array of exactly `n` elements (00_scope.md R11). -/
def zeroFrame {w : Nat} (n : Nat) : Vector (BitVec w) n :=
  ⟨⟨List.replicate n 0⟩, by simp⟩

end Sys2Proof
end

