-- ==== Sys2Proof/Config.lean ====
section
/-! DEFINITION. What an instance of the block fixes: the fixed parameters of 00_scope.md R8, the OPEN parameters of
R9, and the free values of the model. -/

namespace Sys2Proof

/-- PKT, the packet length in samples (00_scope.md R8). -/
abbrev pkt : Nat := 320
/-- WIN, the smoothing window's length (00_scope.md R8). -/
abbrev win : Nat := 160
/-- HALF, the samples taken from each side of a junction, and the sink rewrite length (00_scope.md R8). -/
abbrev half : Nat := 80
/-- CUT, the low-pass cutoff index (00_scope.md R8). -/
abbrev cut : Nat := 80
/-- SRAM_SAMPLES (00_scope.md R9). -/
abbrev sramSamples : Nat := 2048

/-- The OPEN parameters of one instance but for SINK_CAP_PKTS (00_scope.md R9; 41_transform_lowpass.md R120). The types carry property
COEF (R121: coefficients are 32-bit) and property PURE (R124: functions of their input alone, total); property RT
(R122) is `Params.RoundTrip`, which `LegalParams` demands. -/
structure Params where
  fwd160 : Vector Sample 160 → Vector Coef 160
  inv160 : Vector Coef 160 → Vector Sample 160
  fwd320 : Vector Sample 320 → Vector Coef 320
  inv320 : Vector Coef 320 → Vector Sample 320
  /-- TOL, the round-trip tolerance (41_transform_lowpass.md R122). -/
  tol : Nat
  /-- BSM_BASE / 0x2000: the base address is a multiple of 0x2000 (20_memory.md R51). -/
  baseIndex : Nat
  /-- NUM_BSM − 1 (60_exceptions.md R216). -/
  instancesLessOne : Nat

/-- BSM_BASE, the block's base address on the host bus (20_memory.md R51). -/
def Params.base (P : Params) : Nat := 0x2000 * P.baseIndex

/-- NUM_BSM, the number of instances on the platform (60_exceptions.md R216). No rule of one instance reads it. -/
def Params.instances (P : Params) : Nat := P.instancesLessOne + 1

/-- Property RT (41_transform_lowpass.md R122): each inverse undoes its forward transform up to TOL. -/
def Params.RoundTrip (P : Params) : Prop :=
  (∀ (x : Vector Sample 160) (j : Nat) (h : j < 160),
      ((P.inv160 (P.fwd160 x))[j].toInt - x[j].toInt).natAbs ≤ P.tol) ∧
  (∀ (x : Vector Sample 320) (j : Nat) (h : j < 320),
      ((P.inv320 (P.fwd320 x))[j].toInt - x[j].toInt).natAbs ≤ P.tol)

/-- A sample widened to a coefficient and narrowed again is the sample. -/
theorem sample_of_coef (x : Sample) : (x.signExtend 32).setWidth 16 = x := by
  ext i h
  rw [BitVec.getElem_setWidth, BitVec.getLsbD_signExtend]
  simp [h, Nat.lt_trans h (by decide : 16 < 32)]

/-- The parameters that the spec allows: the transform pair keeps property RT (41_transform_lowpass.md R120, R122). The
values given here say only that such parameters exist; `Config.legal` is none of them in particular, log 10. -/
structure LegalParams extends Params where
  fwd160 := fun x => x.map (BitVec.signExtend 32)
  inv160 := fun c => c.map (BitVec.setWidth 16)
  fwd320 := fun x => x.map (BitVec.signExtend 32)
  inv320 := fun c => c.map (BitVec.setWidth 16)
  tol := 0
  baseIndex := 0
  instancesLessOne := 0
  /-- Property RT (41_transform_lowpass.md R122). -/
  roundTrip : toParams.RoundTrip := by
    constructor <;> intro x j h <;> simp [sample_of_coef]
deriving Inhabited

/-- The OPEN parameters of this instance (00_scope.md R9), constrained by properties COEF, RT and PURE and by nothing
else (41_transform_lowpass.md R120 to R124): free values, log 10. -/
opaque Config.legal : LegalParams

/-- The parameters of this instance, at which its commands run. -/
def Config.params : Params := Config.legal.toParams

/-- SINK_CAP_PKTS − 1 of this instance, so that 1 ≤ SINK_CAP_PKTS ≤ 2^32 − 1: OPEN (00_scope.md R9), log 10. The
register SINK_CAP of State holds it from reset on (log 24). -/
opaque Config.sinkCapLessOne : Fin 4294967295

/-- What a byte of the sample memory that nothing has written since reset number `epoch` reads as, by its window
offset (70_reset_and_hazards.md R231: unspecified): a free value, log 6. -/
opaque Config.sramUnwritten : (epoch : Nat) → (offset : Nat) → Byte

/-- What a sink that holds fewer than 80 samples holds after an amend (20_memory.md R65 speaks only of a sink with
at least 80): a free value of its content and of the amend's data, log 22. -/
opaque Config.shortSinkAmended : (content : List Sample) → (data : List Sample) → List Sample

end Sys2Proof
end

