-- ==== Sys2Proof/Machine/Arith.lean ====
section
/-! DEFINITION. Sample arithmetic: exact integer sums, truncation toward zero, saturation, the crossfade and the
spectral blend (00_scope.md R12; 40_buffer_utilities.md R100; 43_concealment.md R168). -/

namespace Sys2Proof.Machine

/-- `tdiv(a, b)`: the quotient truncated toward zero (00_scope.md R12). -/
def tdiv (a : Int) (b : Nat) : Int := a.sign * ((a.natAbs / b : Nat) : Int)

/-- `sat16(v)`, as a Sample (00_scope.md R12). -/
def sat16 (v : Int) : Sample := BitVec.ofInt 16 (max (-32768) (min 32767 v))

/-- `sat32(v)`, as a coefficient (00_scope.md R12). -/
def sat32 (v : Int) : Coef := BitVec.ofInt 32 (max (-2147483648) (min 2147483647 v))

/-- The exact weighted value at index `i` of a crossfade of length `L ≥ 2`, before `sat16` (40_buffer_utilities.md
R100). -/
def xfExact (dst src : Sample) (L i : Nat) : Int :=
  tdiv (((L - 1 - i : Nat) : Int) * src.toInt + (i : Int) * dst.toInt) (L - 1)

/-- `XF(dst, src, L)` (40_buffer_utilities.md R100). -/
def xf (dst src : List Sample) (L : Nat) : List Sample :=
  match L with
  | 0 => []
  | 1 => [nth src 0]
  | _ => (List.range L).map fun i => sat16 (xfExact (nth dst i) (nth src i) L i)

/-- `AVG[j]` for missing index `k` of a gap of `g`: the exact blend with weight (k+1)/(g+1), truncated
(43_concealment.md R168). It lies between its two coefficients, so `sat32` never changes it. -/
def blendCoef (g k : Nat) (cp ca : Coef) : Coef :=
  sat32 (tdiv (((g - k : Nat) : Int) * cp.toInt + ((k : Int) + 1) * ca.toInt) (g + 1))

/-- `AVG` for missing index `k` of a gap of `g` (43_concealment.md R168). -/
def blendSpectra (g k : Nat) (cp ca : Vector Coef 320) : Vector Coef 320 :=
  fixed 320 ((List.range 320).map fun j => blendCoef g k (nth cp.toList j) (nth ca.toList j))

/-- `FADE(x)[i] = tdiv((79 − i)·x[i], 79)` (41_transform_lowpass.md R129). -/
def fade (x : List Sample) : List Sample :=
  (List.range half).map fun i => sat16 (tdiv (((79 - i : Nat) : Int) * (nth x i).toInt) 79)

end Sys2Proof.Machine
end

