-- ==== Sys2Proof/Machine/Lowpass.lean ====
section
/-! DEFINITION. The low-pass window function LP and the two named test configurations of the transform
(41_transform_lowpass.md R125, R127, R129). -/

namespace Sys2Proof.Machine

/-- A spectrum with every coefficient at index ≥ 80 zeroed (41_transform_lowpass.md R125). -/
def lowHalf (c : Vector Coef 160) : Vector Coef 160 :=
  fixed 160 (c.toList.take cut ++ List.replicate (win - cut) 0)

/-- `INV160` of the zeroed spectrum of `W`, before the crossfade. -/
def lpFiltered (P : Params) (w : Vector Sample 160) : Vector Sample 160 := P.inv160 (lowHalf (P.fwd160 w))

/-- `LP(W)` (41_transform_lowpass.md R125): transform, zero the upper half, invert, and crossfade the first 80
samples from the raw signal to the filtered one. -/
def lp (P : Params) (w : Vector Sample 160) : Vector Sample 160 :=
  let r := lpFiltered P w
  fixed 160 (xf (r.toList.take half) (w.toList.take half) half ++ r.toList.drop half)

/-- A sample as a coefficient of the same value. -/
def coefOf (x : Sample) : Coef := x.signExtend 32

/-- The parameters `P` with TC_ID as the transform: `FWD_N(x)[j] = x[j]`, `INV_N(c)[j] = sat16(c[j])`
(41_transform_lowpass.md R127). For test vectors only. -/
def tcId (P : Params) : Params :=
  { P with
    fwd160 := fun x => fixed 160 (x.toList.map coefOf)
    inv160 := fun c => fixed 160 (c.toList.map fun v => sat16 v.toInt)
    fwd320 := fun x => fixed 320 (x.toList.map coefOf)
    inv320 := fun c => fixed 320 (c.toList.map fun v => sat16 v.toInt)
    tol := 0 }

/-- The parameters `P` with TC_REV as the transform: `FWD_N(x)[j] = x[N−1−j]`, `INV_N(c)[j] = sat16(c[N−1−j])`
(41_transform_lowpass.md R129). For test vectors only. -/
def tcRev (P : Params) : Params :=
  { P with
    fwd160 := fun x => fixed 160 (x.toList.reverse.map coefOf)
    inv160 := fun c => fixed 160 (c.toList.reverse.map fun v => sat16 v.toInt)
    fwd320 := fun x => fixed 320 (x.toList.reverse.map coefOf)
    inv320 := fun c => fixed 320 (c.toList.reverse.map fun v => sat16 v.toInt)
    tol := 0 }

end Sys2Proof.Machine
end

