-- ==== Sys2Proof/Syntax.lean ====
section
/-! DEFINITION. The command set BSM-CMD version 1 (00_scope.md R2; 30_encoding.md R82). -/

namespace Sys2Proof

/-- The nine commands, one constructor per row of spec/opcode_table.json. A command word has no operand field
(30_encoding.md R80, R85), so no constructor has an argument. -/
inductive Instr where
  /-- Do nothing (44_receiver.md R186). -/
  | nop
  /-- Process the packet in IN as an arrival (44_receiver.md R180). -/
  | arrive
  /-- End the session (44_receiver.md R185). -/
  | clear
  /-- Append IN to the sink without smoothing (42_smoother.md R147). -/
  | append
  /-- Smooth the junction with the last packet written, then append IN (42_smoother.md R148). -/
  | smooth
  /-- Crossfade two SRAM ranges (40_buffer_utilities.md R105). -/
  | xfade
  /-- Copy an SRAM range (40_buffer_utilities.md R106). -/
  | copy
  /-- Write silence to an SRAM range (40_buffer_utilities.md R107). -/
  | fill0
  /-- Low-pass a 160-sample SRAM window in place (41_transform_lowpass.md R126). -/
  | lpwin
deriving DecidableEq, Repr

end Sys2Proof
end

