-- ==== Sys2Proof/Machine/State.lean ====
section
/-! DEFINITION. The state of one instance, of its sink, and of the moves still to come; the reasons a step can stop;
the state after reset (10_state.md; 20_memory.md R64 to R68; 70_reset_and_hazards.md R230 to R233). -/

namespace Sys2Proof.Machine

/-- RS_STATE (10_state.md R23). -/
inductive RsState where
  | empty
  | tracking
deriving DecidableEq, Repr

/-- The legal values of STRATEGY, in the order of their codes 0 to 4 (10_state.md R33), log 17. -/
inductive Strategy where
  | silence
  | repeatPrevious
  | repeatNext
  | repeatBoth
  | spectralInterpolate
deriving DecidableEq, Repr

/-- The command error codes that version 1 writes to STATUS.ERRCODE (60_exceptions.md R201), log 17. -/
inductive ErrCode where
  /-- 0 NONE. -/
  | none
  /-- 1 ILLEGAL_CMD. -/
  | illegalCmd
  /-- 2 SEQ_ORDER. -/
  | seqOrder
  /-- 3 SINK_FULL. -/
  | sinkFull
  /-- 4 RANGE. -/
  | range
  /-- 5 NO_TAIL. -/
  | noTail
deriving DecidableEq, Repr

/-- A transaction on the sink port (20_memory.md R64, R65, R74). -/
inductive Txn where
  /-- SinkAppend, carrying 320 samples. -/
  | append (packet : List Sample)
  /-- SinkAmend, carrying 80 samples. -/
  | amend (samples : List Sample)
deriving DecidableEq, Repr

/-- Where the engine takes a 320-sample packet from. -/
inductive Source where
  /-- The IN region. -/
  | input
  /-- The PREV region. -/
  | previous
  /-- zeros(320). -/
  | silence
  /-- The scratch packet S. -/
  | scratch
  /-- INV320(AVG) (43_concealment.md R168). -/
  | spectrum
deriving DecidableEq, Repr

/-- The buffer P that SMOOTHJ(P) modifies in place (42_smoother.md R140). -/
inductive Buffer where
  /-- The IN region. -/
  | input
  /-- The scratch packet S. -/
  | scratch
deriving DecidableEq, Repr

/-- One line of the engine's pseudocode. Those that issue a sink transaction are `amend` and `append`; the engine
waits at them until the sink accepts (20_memory.md R67). -/
inductive Action where
  /-- `S <- source` (43_concealment.md R167). -/
  | loadScratch (src : Source)
  /-- `S` becomes the bridging packet with its internal low-pass (43_concealment.md R166). -/
  | bridge
  /-- Steps 1 to 5 of SMOOTHJ: `W = TAIL ++ P[0..80)`, `R = LP(W)` (42_smoother.md R140). -/
  | filter (p : Buffer)
  /-- Step 6 of SMOOTHJ: `SinkAmend(R[0..80))`. -/
  | amend
  /-- Step 7 of SMOOTHJ: `P[0..80) <- R[80..160)`. -/
  | splice (p : Buffer)
  /-- `SinkAppend(source)`. -/
  | append (src : Source)
  /-- `CP = FWD320(PREV)`, `CA = FWD320(IN)` (43_concealment.md R168). -/
  | analyse
  /-- `AVG` for the missing index `k` of a gap of `g` (43_concealment.md R168). -/
  | blend (g k : Nat)
  /-- ARRIVE's last lines: PREV <- IN, PREV_SEQNO <- s, GAPLEN <- g, RS_STATE <- Tracking (44_receiver.md R180). -/
  | retain (seqno gap : Word)
deriving DecidableEq, Repr

/-- The size of a host access, in the widths that 20_memory.md R54 and R55 name. -/
inductive Width where
  | byte
  | half
  | word
deriving DecidableEq, Repr

/-- The direction of a host access, with the write data (20_memory.md R74). -/
inductive Direction where
  | read
  | write (value : Word)
deriving DecidableEq, Repr

/-- One access on the host port, with its 13-bit byte offset in the window (20_memory.md R74). -/
structure Access where
  offset : BitVec 13
  width : Width
  direction : Direction
deriving DecidableEq, Repr

/-- The host port's answer to an access: OK, with the data of a read, or ERROR (20_memory.md R55, R74). -/
inductive Response where
  | written
  | read16 (value : BitVec 16)
  | read32 (value : Word)
  | busError
deriving DecidableEq, Repr

/-- One move of the world, in the order in which the moves come (log 2). -/
inductive Event where
  /-- The engine takes a turn. -/
  | engine
  /-- The host makes an access. -/
  | host (access : Access)
  /-- The host polls: `rd STATUS` again and again until BUSY is 0 (`wait`, 30_encoding.md R88), log 23. -/
  | poll
  /-- The sink changes how many further transactions it is willing to accept (no limit, or that many). -/
  | sinkWilling (limit : Option Nat)
  /-- The platform puts another sink, with this content, in the sink's place (70_reset_and_hazards.md R236). -/
  | newSink (content : List Sample)
  /-- The platform drives `rst_n` to 0 (70_reset_and_hazards.md R230): `kept` says whether the sink kept the
  transaction it was receiving. -/
  | assertReset (kept : Bool)
  /-- The platform drives `rst_n` to 1 (70_reset_and_hazards.md R230, R231): `sram` is what the sample memory then
  holds from its first byte on, as far as it is listed. -/
  | releaseReset (sram : List Byte)
deriving DecidableEq, Repr

/-- The bytes of the sample memory that something has written since reset, by window offset, offsets strictly
rising. An unlisted offset holds no stored byte: reading it gives a free value (log 6). -/
abbrev Memory := List Host.Cell

/-- The first window offset of the sample space (10_state.md R40). -/
abbrev sramBase : Nat := 0x1000
/-- The window offset just past the sample space (10_state.md R40). -/
abbrev sramEnd : Nat := 0x2000

/-- The canonical form: offsets strictly rising, all of them in the sample space. (Nothing stored equals what an
unlisted offset holds, since that holds no stored byte.) -/
abbrev Memory.wf (m : Memory) : Prop :=
  m.Pairwise (fun c d => c.1 < d.1) ∧ ∀ c ∈ m, sramBase ≤ c.1 ∧ c.1 < sramEnd

/-- The whole machine. INVENTORY.md lists each field with the rule that names it. -/
structure State where
  /-- `rst_n = 0`: reset is asserted (70_reset_and_hazards.md R230). -/
  rstAsserted : Bool
  /-- CTRL.DONE_IE. -/
  doneIE : Bool
  /-- CTRL.ERR_IE. -/
  errIE : Bool
  /-- STATUS.BUSY. -/
  busy : Bool
  /-- STATUS.DONE. -/
  done : Bool
  /-- STATUS.ERR. -/
  err : Bool
  /-- STATUS.BUSY_ERR. -/
  busyErr : Bool
  /-- STATUS.CFG_ERR. -/
  cfgErr : Bool
  /-- STATUS.ERRCODE. -/
  errcode : ErrCode
  /-- RS_STATE, read as STATUS.TRACKING. -/
  rsState : RsState
  /-- STRATEGY. -/
  strategy : Strategy
  /-- SEQNO. -/
  seqno : Word
  /-- PREV_SEQNO. -/
  prevSeqno : Word
  /-- GAPLEN. -/
  gaplen : Word
  /-- SINK_PKTS. -/
  sinkPkts : Word
  /-- SINK_CAP, held as SINK_CAP_PKTS − 1 so that it lies in 1 .. 2^32 − 1 (10_state.md R38); no step changes it,
  log 24. -/
  sinkCapLessOne : Fin 4294967295
  /-- ARG0. -/
  arg0 : Word
  /-- ARG1. -/
  arg1 : Word
  /-- ARG2. -/
  arg2 : Word
  /-- The command word latched by the CMD write that set BUSY (10_state.md R45). -/
  pending : Option Word
  /-- The sample memory (10_state.md R40). -/
  sram : Memory
  /-- S, the synthetic packet (10_state.md R44). -/
  scratchS : Vector Sample 320
  /-- W, the smoothing window (10_state.md R44). -/
  scratchW : Vector Sample 160
  /-- R, the filtered reconstruction (10_state.md R44). -/
  scratchR : Vector Sample 160
  /-- CP, the spectrum of the previous packet (10_state.md R44). -/
  scratchCP : Vector Coef 320
  /-- CA, the spectrum of the arriving packet (10_state.md R44). -/
  scratchCA : Vector Coef 320
  /-- AVG, the blended spectrum (10_state.md R44). -/
  scratchAVG : Vector Coef 320
  /-- The lines still to do of a command that has begun and waits for the sink, its waiting line first. -/
  work : Option (List Action)
  /-- The transaction issued on the sink port and not yet accepted (20_memory.md R67). -/
  port : Option Txn
  /-- SINK, the sink's content, oldest sample first (10_state.md R46). -/
  sink : List Sample
  /-- How many further transactions the sink accepts before it withholds acceptance; `none` is without limit. -/
  sinkAccepts : Option Nat
  /-- The transactions accepted so far, oldest first (the model's own record, log 20). -/
  trace : List Txn
  /-- The host port's answer to the latest access. -/
  response : Option Response
  /-- The moves still to come (log 2). -/
  inputs : List Event
  /-- How many times the sample memory has become unspecified since power-on (the model's own counter, log 6). -/
  resets : Nat
deriving DecidableEq, Repr

/-- Why the machine stops. The spec stops it nowhere: a command error completes the command (60_exceptions.md R206)
and a bus error is an answer on the host port (20_memory.md R55). -/
inductive Fault where
  /-- Raised by the engine's turn when BUSY = 1 and no command word is latched, which no run from reset reaches
  (log 19). Safe: the model stops where the spec gives no state. -/
  | noCommandLatched
deriving DecidableEq, Repr

/-- Why an instruction has no meaning. -/
inductive Refusal where
  /-- Raised by an arm of `exec` whose command is not modelled; no arm raises it. Safe. -/
  | notModelled (mnemonic : String)
deriving DecidableEq, Repr

/-- The machine right after reset, `rst_n` being 1 again (10_state.md R26, R30; 70_reset_and_hazards.md R230, R231,
R233). The scratch buffers (log 7), the sink's content (log 5), its willingness (log 4) and the host port's answer
(log 12) are the model's values. -/
def State.reset : State where
  rstAsserted := false
  doneIE := false
  errIE := false
  busy := false
  done := false
  err := false
  busyErr := false
  cfgErr := false
  errcode := .none
  rsState := .empty
  strategy := .silence
  seqno := 0
  prevSeqno := 0
  gaplen := 0
  sinkPkts := 0
  sinkCapLessOne := Config.sinkCapLessOne
  arg0 := 0
  arg1 := 0
  arg2 := 0
  pending := none
  sram := []
  scratchS := zeroFrame 320
  scratchW := zeroFrame 160
  scratchR := zeroFrame 160
  scratchCP := zeroFrame 320
  scratchCA := zeroFrame 320
  scratchAVG := zeroFrame 320
  work := none
  port := none
  sink := []
  sinkAccepts := none
  trace := []
  response := none
  inputs := []
  resets := 0

end Sys2Proof.Machine
end

