-- ==== Sys2Proof/Machine/Ops.lean ====
section
/-! DEFINITION. The named operations over the sample memory, the command lifecycle (with the command error, the
block's one exception, and the return from it), and the sink transactions. -/

namespace Sys2Proof.Machine

/-! ### Bytes -/

/-- The stored byte at window offset `a`, if one is stored. -/
def Memory.read (a : Nat) : Memory → Option Byte
  | [] => none
  | c :: m => if c.1 = a then some c.2 else Memory.read a m

/-- The cells of bytes laid out from offset `a` on. -/
def cellsAt (a : Nat) : List Byte → Memory
  | [] => []
  | b :: bs => (a, b) :: cellsAt (a + 1) bs

/-- Store bytes from offset `a` on, in place of what stood there; the canonical form is kept. -/
def Memory.write (a : Nat) (bs : List Byte) (m : Memory) : Memory :=
  m.filter (fun c => decide (c.1 < a)) ++ cellsAt a bs ++ m.filter (fun c => decide (a + bs.length ≤ c.1))

/-- The byte the host and the engine read at window offset `a` of the sample space: the stored byte, or, where
nothing has written since reset, an unspecified one (70_reset_and_hazards.md R231; 60_exceptions.md R220), log 6. -/
def State.byteAt (s : State) (a : Nat) : Byte :=
  (s.sram.read a).getD (Config.sramUnwritten s.resets a)

/-- Store bytes from window offset `a` on. -/
def State.storeBytes (s : State) (a : Nat) (bs : List Byte) : State :=
  { s with sram := s.sram.write a bs }

/-! ### Samples -/

/-- The two bytes of a Sample, lower offset first (20_memory.md R53, R66). -/
def sampleBytes (x : Sample) : List Byte := [x.extractLsb' 0 8, x.extractLsb' 8 8]

/-- The window offset of the low byte of sample `i` (20_memory.md R53). -/
def sampleOffset (i : Nat) : Nat := sramBase + 2 * i

/-- `SRAM[i]` (20_memory.md R53). -/
def State.sampleAt (s : State) (i : Nat) : Sample :=
  s.byteAt (sampleOffset i + 1) ++ s.byteAt (sampleOffset i)

/-- `SRAM[start .. start+n)`. -/
def State.samples (s : State) (start n : Nat) : List Sample :=
  (List.range n).map fun k => s.sampleAt (start + k)

/-- `SRAM[start .. start+|xs|) <- xs`. -/
def State.storeSamples (s : State) (start : Nat) (xs : List Sample) : State :=
  s.storeBytes (sampleOffset start) (xs.flatMap sampleBytes)

/-! ### The command lifecycle -/

/-- Command start: the CMD write latches the word, sets BUSY and clears DONE, ERR and ERRCODE
(60_exceptions.md R205). -/
def State.startCommand (s : State) (w : Word) : State :=
  { s with
    pending := some w
    busy := true
    done := false
    err := false
    errcode := .none
    work := none
    port := none }

/-- Command completion: DONE is set and BUSY falls (60_exceptions.md R206); no command is then latched (log 9). -/
def State.complete (s : State) : State :=
  { s with done := true, busy := false, pending := none, work := none, port := none }

/-- A command error, the block's one exception: the command completes with ERR and its code, and with no other
effect (60_exceptions.md R200, R203, R206). It saves no state and redirects nothing (R207). -/
def State.raiseError (s : State) (code : ErrCode) : State :=
  { s with err := true, errcode := code }.complete

/-- The return: the host acknowledges by writing 1 to STATUS.DONE and STATUS.ERR (60_exceptions.md R208;
10_state.md R31). -/
def State.acknowledge (s : State) : State :=
  { s with done := false, err := false, errcode := .none }

/-! ### The sink port -/

/-- The 640 or 160 bytes a transaction carries, in stream order (20_memory.md R66). -/
def Txn.bytes : Txn → List Byte
  | .append p => p.flatMap sampleBytes
  | .amend a => a.flatMap sampleBytes

/-- What the sink holds after it takes a transaction (20_memory.md R64, R65); log 22 for a sink of under 80 samples. -/
def Txn.onSink (t : Txn) (content : List Sample) : List Sample :=
  match t with
  | .append p => content ++ p
  | .amend a =>
    if half ≤ content.length then content.take (content.length - half) ++ a
    else Config.shortSinkAmended content a

/-- The first sample index of the TAIL region (10_state.md R40). -/
abbrev tailBase : Nat := 640

/-- The engine's side of an accepted transaction: SINK_PKTS and TAIL (20_memory.md R64, R65). -/
def State.afterTxn (s : State) (t : Txn) : State :=
  match t with
  | .append p => { s with sinkPkts := s.sinkPkts + 1 }.storeSamples tailBase (p.drop 240)
  | .amend a => s.storeSamples tailBase a

/-- The sink takes a transaction: its content and the record of transactions change. -/
def State.sinkTakes (s : State) (t : Txn) : State :=
  { s with sink := t.onSink s.sink, trace := s.trace ++ [t] }

/-- The whole effect of a transaction the sink accepts. -/
def State.transact (s : State) (t : Txn) : State := (s.sinkTakes t).afterTxn t

/-- Whether the sink accepts the transaction now, and the state in which it has used up that acceptance
(20_memory.md R67). -/
def State.acceptance (s : State) : Option State :=
  match s.sinkAccepts with
  | none => some s
  | some 0 => none
  | some (n + 1) => some { s with sinkAccepts := some n }

/-- The engine has issued a transaction and waits at the first of these lines: BUSY stays 1 (20_memory.md R67;
60_exceptions.md R222). -/
def State.wait (s : State) (t : Txn) (rest : List Action) : State :=
  { s with port := some t, work := some rest }

/-- SINK_CAP_PKTS, the sink's capacity in packets (10_state.md R38). -/
def State.sinkCap (s : State) : Nat := s.sinkCapLessOne.val + 1

/-! ### Reset -/

/-- While `rst_n` is 0 every register and flag holds its reset value, no command is latched and no transaction is issued
(70_reset_and_hazards.md R230). The sample memory, the sink's side, the constant SINK_CAP, the port's answer and the
moves to come are no registers of R26. -/
def State.underReset (s : State) : State :=
  { State.reset with
    rstAsserted := true
    sram := s.sram
    sink := s.sink
    trace := s.trace
    sinkAccepts := s.sinkAccepts
    sinkCapLessOne := s.sinkCapLessOne
    response := s.response
    inputs := s.inputs
    resets := s.resets }

/-- What is left of a state that a host access has made: all of it while `rst_n` is 1; while `rst_n` is 0 the
registers have their reset values again (70_reset_and_hazards.md R230), log 14. -/
def State.held (s : State) : State := if s.rstAsserted then s.underReset else s

/-- `rst_n` falls (70_reset_and_hazards.md R230 to R232): a command in flight is abandoned with none of its remaining
transactions issued, the sample memory becomes unspecified, and the sink is not told; `kept` says whether it kept the
transaction it was receiving (93_implementation_defined.md V3). Logs 6, 7 and 8. Where `rst_n` is 0 already, nothing
happens. -/
def State.assertReset (s : State) (kept : Bool) : State :=
  if s.rstAsserted then s
  else
    let told : State :=
      match kept, s.port with
      | true, some t => s.sinkTakes t
      | _, _ => s
    { told.underReset with sram := [], resets := s.resets + 1 }

/-- `rst_n` rises (70_reset_and_hazards.md R230, R231): every register has its reset value, and the sample memory is
unspecified: it holds `sram` from its first byte on, and a byte not listed there is a new free value. Logs 6 and 14.
Where `rst_n` is 1 already, nothing happens. -/
def State.releaseReset (s : State) (sram : List Byte) : State :=
  if s.rstAsserted then
    { s.underReset with
      rstAsserted := false
      sram := Memory.write sramBase (sram.take 4096) []
      resets := s.resets + 1 }
  else s

end Sys2Proof.Machine
end

