-- ==== Sys2Proof/Machine/Operands.lean ====
section
/-! DEFINITION. What a command reads: the operand registers as unsigned integers, the fixed SRAM regions, the range
check, the gap length, and the packets the engine takes (30_encoding.md R85, R86; 10_state.md R40 to R42). -/

namespace Sys2Proof.Machine

/-- The first sample index of the IN region (10_state.md R40). -/
abbrev inBase : Nat := 0
/-- The first sample index of the PREV region (10_state.md R40). -/
abbrev prevBase : Nat := 320
/-- The first sample index of the GP region (10_state.md R40). -/
abbrev gpBase : Nat := 720

/-- The IN region, `SRAM[0..320)`. -/
def State.inRegion (s : State) : List Sample := s.samples inBase pkt
/-- The PREV region, `SRAM[320..640)`. -/
def State.prevRegion (s : State) : List Sample := s.samples prevBase pkt
/-- The TAIL region, `SRAM[640..720)`. -/
def State.tailRegion (s : State) : List Sample := s.samples tailBase half

/-- ARG0 as a destination or window start (30_encoding.md R85). -/
def State.dst (s : State) : Nat := s.arg0.toNat
/-- ARG1 as a source start (30_encoding.md R85). -/
def State.src (s : State) : Nat := s.arg1.toNat
/-- ARG2 as a count (30_encoding.md R85). -/
def State.count (s : State) : Nat := s.arg2.toNat

/-- `fits(start, n)`, on unbounded integers (40_buffer_utilities.md R104). -/
def fits (start n : Nat) : Bool := decide (start + n ≤ sramSamples)

/-- The gap an ARRIVE finds: 0 in the Empty state, else `seqno − prevSeqno − 1`, exact (44_receiver.md R180;
43_concealment.md R161). -/
def State.gap (s : State) : Nat :=
  match s.rsState with
  | .empty => 0
  | .tracking => s.seqno.toNat - s.prevSeqno.toNat - 1

/-- The capacity check for a command that appends `need` packets, on exact integers (60_exceptions.md R202). -/
def State.hasRoom (s : State) (need : Nat) : Bool :=
  decide (s.sinkPkts.toNat + need ≤ s.sinkCap)

/-- A silent packet, `zeros(320)` (00_scope.md R11). -/
def silentPacket : List Sample := List.replicate pkt 0

/-- The 320 samples the engine takes from a source. -/
def State.packet (P : Params) (s : State) : Source → List Sample
  | .input => s.inRegion
  | .previous => s.prevRegion
  | .silence => silentPacket
  | .scratch => s.scratchS.toList
  | .spectrum => (P.inv320 s.scratchAVG).toList

/-- The 320 samples of the buffer that SMOOTHJ modifies in place. -/
def State.buffer (s : State) : Buffer → List Sample
  | .input => s.inRegion
  | .scratch => s.scratchS.toList

/-- `P[0..80) <- xs` for the buffer P of SMOOTHJ. -/
def State.storeHead (s : State) (p : Buffer) (xs : List Sample) : State :=
  match p with
  | .input => s.storeSamples inBase xs
  | .scratch => { s with scratchS := fixed 320 (xs ++ s.scratchS.toList.drop half) }

end Sys2Proof.Machine
end

