-- ==== Sys2Proof/Machine/BufferCommands.lean ====
section
/-! DEFINITION. The buffer utilities' commands: XFADE, COPY and FILL0 (40_buffer_utilities.md R105 to R107). -/

namespace Sys2Proof.Machine

/-- XFADE: crossfade two SRAM ranges, both read before any write (40_buffer_utilities.md R105). -/
def execXfade (s : State) : Host.Outcome State Fault Refusal :=
  if fits s.dst s.count && fits s.src s.count then
    .next (s.storeSamples s.dst (xf (s.samples s.dst s.count) (s.samples s.src s.count) s.count)).complete
  else .next (s.raiseError .range)

/-- COPY: copy an SRAM range as if through a temporary (40_buffer_utilities.md R103, R106). -/
def execCopy (s : State) : Host.Outcome State Fault Refusal :=
  if fits s.dst s.count && fits s.src s.count then
    .next (s.storeSamples s.dst (s.samples s.src s.count)).complete
  else .next (s.raiseError .range)

/-- FILL0: write silence (40_buffer_utilities.md R103, R107). -/
def execFill0 (s : State) : Host.Outcome State Fault Refusal :=
  if fits s.dst s.count then .next (s.storeSamples s.dst (List.replicate s.count 0)).complete
  else .next (s.raiseError .range)

end Sys2Proof.Machine
end

