-- ==== Sys2Proof/Machine/Engine.lean ====
section
/-! DEFINITION. The engine's pseudocode lines and how it goes through them, waiting at a sink transaction until the
sink accepts it (20_memory.md R67; 42_smoother.md R140; 43_concealment.md R162 to R168). -/

namespace Sys2Proof.Machine

/-- The sink transaction a line issues, if it issues one, with its data fixed by the state at that point
(20_memory.md R68). -/
def Action.txn (P : Params) (s : State) : Action → Option Txn
  | .amend => some (.amend (s.scratchR.toList.take half))
  | .append src => some (.append (s.packet P src))
  | .loadScratch _ => none
  | .bridge => none
  | .filter _ => none
  | .splice _ => none
  | .analyse => none
  | .blend _ _ => none
  | .retain _ _ => none

/-- `W <- window`, `R <- LP(W)`: the filter recipe on scratch (41_transform_lowpass.md R125). -/
def State.lowpass (P : Params) (s : State) (w : Vector Sample 160) : State :=
  { s with scratchW := w, scratchR := lp P w }

/-- The window at a junction: `TAIL ++ P[0..80)` (42_smoother.md R141). -/
def State.junction (s : State) (p : Buffer) : Vector Sample 160 :=
  fixed 160 (s.tailRegion ++ (s.buffer p).take half)

/-- The bridging packet before its internal low-pass: `PREV[160..320) ++ IN[0..160)` (43_concealment.md R166). -/
def State.bridgeRaw (s : State) : List Sample := s.prevRegion.drop 160 ++ s.inRegion.take 160

/-- The bridging packet S with `S[80..240) <- LP(S[80..240))` (43_concealment.md R166). -/
def State.makeBridge (P : Params) (s : State) : State :=
  let raw := s.bridgeRaw
  let t := s.lowpass P (fixed 160 ((raw.drop 80).take 160))
  { t with scratchS := fixed 320 (raw.take 80 ++ t.scratchR.toList ++ raw.drop 240) }

/-- ARRIVE's last lines (44_receiver.md R180, R181). They take effect in the completion step (60_exceptions.md
R206), which follows them at once. -/
def State.retain (s : State) (seqno gap : Word) : State :=
  { s.storeSamples prevBase s.inRegion with prevSeqno := seqno, gaplen := gap, rsState := .tracking }

/-- The effect of a line that issues no transaction. -/
def Action.perform (P : Params) (s : State) : Action → State
  | .loadScratch src => { s with scratchS := fixed 320 (s.packet P src) }
  | .bridge => s.makeBridge P
  | .filter p => s.lowpass P (s.junction p)
  | .splice p => s.storeHead p (s.scratchR.toList.drop half)
  | .analyse =>
    { s with scratchCP := P.fwd320 (fixed 320 s.prevRegion), scratchCA := P.fwd320 (fixed 320 s.inRegion) }
  | .blend g k => { s with scratchAVG := blendSpectra g k s.scratchCP s.scratchCA }
  | .retain seqno gap => s.retain seqno gap
  | .amend => s
  | .append _ => s

/-- The engine goes through the lines of a command and completes it, or stops at the first transaction that the sink
does not accept, with that transaction on the sink port and BUSY still 1 (20_memory.md R67, R70; 60_exceptions.md
R206, R222). -/
def runActions (P : Params) : List Action → State → State
  | [], s => s.complete
  | a :: rest, s =>
    match a.txn P s with
    | none => runActions P rest (a.perform P s)
    | some t =>
      match s.acceptance with
      | some s' => runActions P rest (s'.transact t)
      | none => s.wait t (a :: rest)

/-- The packet that stands in the buffer of SMOOTHJ. -/
def Buffer.source : Buffer → Source
  | .input => .input
  | .scratch => .scratch

/-- `SMOOTHJ(P)` (42_smoother.md R140). -/
def smoothJ (p : Buffer) : List Action := [.filter p, .amend, .splice p, .append p.source]

/-- `S <- source`, then `SMOOTHJ(S)` (43_concealment.md R167). -/
def smoothFiller (src : Source) : List Action := .loadScratch src :: smoothJ .scratch

end Sys2Proof.Machine
end

