-- ==== Sys2Proof/Machine/Concealment.lean ====
section
/-! DEFINITION. The gap-fill synthesizer: the five concealment strategies (43_concealment.md R160 to R170). -/

namespace Sys2Proof.Machine

/-- `repeat n times: SinkAppend(zeros(320))`. -/
def silencePackets (n : Nat) : List Action := List.replicate n (.append .silence)

/-- SILENCE_FILL (43_concealment.md R162). -/
def silenceFill (g : Nat) : List Action := silencePackets g

/-- REPEAT_PREV (43_concealment.md R163). -/
def repeatPrev (g : Nat) : List Action := .append .previous :: silencePackets (g - 1)

/-- REPEAT_NEXT (43_concealment.md R164). -/
def repeatNext (g : Nat) : List Action := silencePackets (g - 1) ++ [.append .input]

/-- REPEAT_BOTH_1 (43_concealment.md R166). -/
def repeatBothOne : List Action := .bridge :: (smoothJ .scratch ++ smoothJ .input)

/-- REPEAT_BOTH_N (43_concealment.md R167). -/
def repeatBothMany (g : Nat) : List Action :=
  smoothFiller .previous ++ (List.replicate (g - 2) (smoothFiller .silence)).flatten ++
    smoothFiller .input ++ smoothJ .input

/-- SPECTRAL (43_concealment.md R168). -/
def spectral (g : Nat) : List Action :=
  .analyse :: (List.range g).flatMap fun k => [.blend g k, .append .spectrum]

/-- FILL_GAP: the lines of the strategy, and whether they write the arrival themselves (43_concealment.md R160). -/
def fillGap (g : Nat) : Strategy → List Action × Bool
  | .silence => (silenceFill g, false)
  | .repeatPrevious => (repeatPrev g, false)
  | .repeatNext => (repeatNext g, false)
  | .repeatBoth => (if g = 1 then repeatBothOne else repeatBothMany g, true)
  | .spectralInterpolate => (spectral g, false)

end Sys2Proof.Machine
end

