-- ==== Sys2Proof/Machine/Receiver.lean ====
section
/-! DEFINITION. The receiver family: NOP, ARRIVE and CLEAR (44_receiver.md). -/

namespace Sys2Proof.Machine

/-- NOP: nothing but completion (44_receiver.md R186). -/
def execNop (s : State) : Host.Outcome State Fault Refusal := .next s.complete

/-- CLEAR: end the session and return the receiver to Empty (44_receiver.md R185). -/
def execClear (s : State) : Host.Outcome State Fault Refusal :=
  .next { s with rsState := .empty, prevSeqno := 0, gaplen := 0, sinkPkts := 0 }.complete

/-- The lines of an ARRIVE that passes its checks, for a gap of `g` (44_receiver.md R180): fill the gap, append IN
unless the strategy wrote it, retain the arrival. -/
def arriveActions (g : Nat) (st : Strategy) (seqno : Word) : List Action :=
  let fill := if 1 ≤ g then fillGap g st else ([], false)
  fill.1 ++ (if fill.2 then [] else [.append .input]) ++ [.retain seqno (BitVec.ofNat 32 g)]

/-- ARRIVE has the wrong sequence order: Tracking and SEQNO ≤ PREV_SEQNO (44_receiver.md R184). -/
def State.outOfOrder (s : State) : Bool :=
  s.rsState == .tracking && decide (s.seqno.toNat ≤ s.prevSeqno.toNat)

/-- ARRIVE under given parameters (44_receiver.md R180; the order of its checks: 60_exceptions.md R204). -/
def arrive (P : Params) (s : State) : State :=
  if s.outOfOrder then s.raiseError .seqOrder
  else if s.hasRoom (s.gap + 1) then runActions P (arriveActions s.gap s.strategy s.seqno) s
  else s.raiseError .sinkFull

/-- ARRIVE: process the packet in IN as an arrival (44_receiver.md R180 to R184). -/
def execArrive (s : State) : Host.Outcome State Fault Refusal := .next (arrive Config.params s)

end Sys2Proof.Machine
end

