-- ==== Sys2Proof/Machine/Smoother.lean ====
section
/-! DEFINITION. The junction smoother's commands: APPEND and SMOOTH (42_smoother.md R147, R148). -/

namespace Sys2Proof.Machine

/-- APPEND under given parameters (42_smoother.md R147). -/
def appendIn (P : Params) (s : State) : State :=
  if s.hasRoom 1 then runActions P [.append .input] s else s.raiseError .sinkFull

/-- APPEND: append IN to the sink without smoothing (42_smoother.md R147). -/
def execAppend (s : State) : Host.Outcome State Fault Refusal := .next (appendIn Config.params s)

/-- SMOOTH under given parameters (42_smoother.md R148; NO_TAIL is checked first). -/
def smoothIn (P : Params) (s : State) : State :=
  if s.sinkPkts = 0 then s.raiseError .noTail
  else if s.hasRoom 1 then runActions P (smoothJ .input) s
  else s.raiseError .sinkFull

/-- SMOOTH: smooth the junction between the last packet written and IN, then append IN (42_smoother.md R148). -/
def execSmooth (s : State) : Host.Outcome State Fault Refusal := .next (smoothIn Config.params s)

end Sys2Proof.Machine
end

