-- ==== Sys2Proof/Machine/WindowCommands.lean ====
section
/-! DEFINITION. The transform unit's command: LPWIN (41_transform_lowpass.md R126). -/

namespace Sys2Proof.Machine

/-- LPWIN under given parameters: `SRAM[a .. a+160) <- LP(SRAM[a .. a+160))`, by way of the scratch window and
reconstruction (41_transform_lowpass.md R126), log 15. -/
def lpwin (P : Params) (s : State) : State :=
  if fits s.dst win then
    let t := s.lowpass P (fixed 160 (s.samples s.dst win))
    (t.storeSamples s.dst t.scratchR.toList).complete
  else s.raiseError .range

/-- LPWIN: low-pass a 160-sample SRAM window in place (41_transform_lowpass.md R126). -/
def execLpwin (s : State) : Host.Outcome State Fault Refusal := .next (lpwin Config.params s)

end Sys2Proof.Machine
end

