-- ==== Sys2Proof/Machine/Dispatch.lean ====
section
/-! DEFINITION. One arm per command: the effect of a command that has started, from the state at its start. -/

namespace Sys2Proof.Machine

def exec (i : Instr) (s : State) : Host.Outcome State Fault Refusal :=
  match i with
  | .nop => Sys2Proof.Machine.execNop s
  | .arrive => Sys2Proof.Machine.execArrive s
  | .clear => Sys2Proof.Machine.execClear s
  | .append => Sys2Proof.Machine.execAppend s
  | .smooth => Sys2Proof.Machine.execSmooth s
  | .xfade => Sys2Proof.Machine.execXfade s
  | .copy => Sys2Proof.Machine.execCopy s
  | .fill0 => Sys2Proof.Machine.execFill0 s
  | .lpwin => Sys2Proof.Machine.execLpwin s

end Sys2Proof.Machine
end

