-- ==== Sys2Proof/WellFormed.lean ====
section
/-! DEFINITION. What a well-formed command, command word and SRAM range are. -/

namespace Sys2Proof

/-- A command has no operand (30_encoding.md R80), so every term of `Instr` is well formed. -/
def Instr.wellFormed : Instr → Bool
  | .nop => true
  | .arrive => true
  | .clear => true
  | .append => true
  | .smooth => true
  | .xfade => true
  | .copy => true
  | .fill0 => true
  | .lpwin => true

/-- RSV, bits 31:4 of a command word, is zero (30_encoding.md R80). -/
def reservedClear (w : Word) : Bool := w.extractLsb' 4 28 == 0#28

/-- OP, bits 3:0 of a command word, is one of 0x0 to 0x8 (30_encoding.md R82). -/
def opcodeAssigned (w : Word) : Bool := (w.extractLsb' 0 4).toNat ≤ 8

/-- A legal command word (30_encoding.md R83). -/
def legalWord (w : Word) : Bool := reservedClear w && opcodeAssigned w

end Sys2Proof
end

