-- ==== Sys2Proof/Decode.lean ====
section
/-! DEFINITION. The decoder, total on any bytes and rejecting by name, then the encoder (30_encoding.md R80 to R84). -/

namespace Sys2Proof

/-- Why a command word is not a command (30_encoding.md R83). -/
inductive Illegal where
  /-- Fewer than the four bytes of one command word (30_encoding.md R81). -/
  | shortWord
  /-- RSV ≠ 0. -/
  | reservedBits
  /-- OP is one of 0x9 to 0xF. -/
  | reservedOpcode
deriving DecidableEq, Repr

/-- The opcode map of 30_encoding.md R82, on OP. -/
def decodeOp (op : BitVec 4) : Except Illegal Instr :=
  if op = 0x0#4 then .ok .nop
  else if op = 0x1#4 then .ok .arrive
  else if op = 0x2#4 then .ok .clear
  else if op = 0x3#4 then .ok .append
  else if op = 0x4#4 then .ok .smooth
  else if op = 0x5#4 then .ok .xfade
  else if op = 0x6#4 then .ok .copy
  else if op = 0x7#4 then .ok .fill0
  else if op = 0x8#4 then .ok .lpwin
  else .error .reservedOpcode

/-- `decode(v)` of 30_encoding.md R84: total over every 32-bit word. -/
def decodeWord (w : Word) : Except Illegal Instr :=
  if w.extractLsb' 4 28 = 0#28 then decodeOp (w.extractLsb' 0 4) else .error .reservedBits

/-- The word of four bytes in the window's byte order, lowest offset first (20_memory.md R52). -/
def wordOfBytes (b0 b1 b2 b3 : Byte) : Word := b3 ++ b2 ++ b1 ++ b0

/-- The four bytes of a word, lowest offset first (20_memory.md R52). -/
def bytesOfWord (w : Word) : List Byte :=
  [w.extractLsb' 0 8, w.extractLsb' 8 8, w.extractLsb' 16 8, w.extractLsb' 24 8]

/-- Decode the first command of a byte stream, and give the bytes after it. -/
def decode : List Byte → Except Illegal (Instr × List Byte)
  | b0 :: b1 :: b2 :: b3 :: rest =>
    match decodeWord (wordOfBytes b0 b1 b2 b3) with
    | .ok i => .ok (i, rest)
    | .error e => .error e
  | _ => .error .shortWord

/-- The command word of each command, from the `word` column of 30_encoding.md R82. -/
def encode : Instr → Word
  | .nop => 0x00000000#32
  | .arrive => 0x00000001#32
  | .clear => 0x00000002#32
  | .append => 0x00000003#32
  | .smooth => 0x00000004#32
  | .xfade => 0x00000005#32
  | .copy => 0x00000006#32
  | .fill0 => 0x00000007#32
  | .lpwin => 0x00000008#32

/-- The bytes of a command's word, lowest offset first. -/
def encodeBytes (i : Instr) : List Byte := bytesOfWord (encode i)

/-- The command word whose low `nbits` bits are those of `w`, the bits above them zero. -/
def tableWord (nbits w : Nat) : Word := BitVec.ofNat 32 (w % 2 ^ nbits)

/-- What the decoder reads from an instruction whose bits are `w`, laid out as the window holds them. -/
def decodeTableWord (nbits w : Nat) : Option Instr :=
  match decode (bytesOfWord (tableWord nbits w)) with
  | .ok (i, _) => some i
  | .error _ => none

end Sys2Proof
end

