-- ==== Sys2Proof/Machine/Flags.lean ====
section
/-! DEFINITION. The STATUS and CTRL words, the write-one-to-clear action, and the interrupt level (10_state.md R29 to
R31, R47, R48; 60_exceptions.md R210). -/

namespace Sys2Proof.Machine

/-- The 4-bit code of an error (60_exceptions.md R201). -/
def ErrCode.code : ErrCode → BitVec 4
  | .none => 0
  | .illegalCmd => 1
  | .seqOrder => 2
  | .sinkFull => 3
  | .range => 4
  | .noTail => 5

/-- The STATUS.TRACKING bit (10_state.md R30). -/
def RsState.tracks : RsState → Bool
  | .empty => false
  | .tracking => true

/-- A read of STATUS: bit 16 TRACKING, bits 11:8 ERRCODE, bits 4 to 0 CFG_ERR, BUSY_ERR, ERR, DONE, BUSY, every
reserved bit 0 (10_state.md R30). -/
def State.statusWord (s : State) : Word :=
  0#15 ++ BitVec.ofBool s.rsState.tracks ++ 0#4 ++ s.errcode.code ++ 0#3 ++ BitVec.ofBool s.cfgErr ++
    BitVec.ofBool s.busyErr ++ BitVec.ofBool s.err ++ BitVec.ofBool s.done ++ BitVec.ofBool s.busy

/-- A read of CTRL: bit 1 ERR_IE, bit 0 DONE_IE, every reserved bit 0 (10_state.md R29). -/
def State.ctrlWord (s : State) : Word :=
  0#30 ++ BitVec.ofBool s.errIE ++ BitVec.ofBool s.doneIE

/-- A write of CTRL: the two enables take bits 0 and 1, and the rest is ignored (10_state.md R29). -/
def State.writeCtrl (s : State) (v : Word) : State :=
  { s with doneIE := v.getLsbD 0, errIE := v.getLsbD 1 }

/-- A write of STATUS, each bit independently (10_state.md R31). -/
def State.writeStatus (s : State) (v : Word) : State :=
  { s with
    done := s.done && !v.getLsbD 1
    err := s.err && !v.getLsbD 2
    errcode := if v.getLsbD 2 then .none else s.errcode
    busyErr := s.busyErr && !v.getLsbD 3
    cfgErr := s.cfgErr && !v.getLsbD 4 }

/-- The interrupt output, a level (10_state.md R47; 60_exceptions.md R210). -/
def State.irq (s : State) : Bool := (s.done && s.doneIE) || (s.err && s.errIE)

end Sys2Proof.Machine
end

