-- ==== Sys2Proof/Machine/HostPort.lean ====
section
/-! DEFINITION. The host port: the register map, the legality of an access, what it does while BUSY is 0 and while it
is 1 (10_state.md R26 to R39; 20_memory.md R50 to R63, R74, R75). -/

namespace Sys2Proof.Machine

/-- The registers of the window (10_state.md R26). -/
inductive Reg where
  | id
  | param
  | ctrl
  | status
  | cmd
  | strategy
  | seqno
  | prevSeqno
  | gaplen
  | sinkPkts
  | sinkCap
  | arg0
  | arg1
  | arg2
deriving DecidableEq, Repr

/-- The byte offset of a register (10_state.md R26). -/
def Reg.offset : Reg → Nat
  | .id => 0x000
  | .param => 0x004
  | .ctrl => 0x008
  | .status => 0x00C
  | .cmd => 0x010
  | .strategy => 0x014
  | .seqno => 0x018
  | .prevSeqno => 0x01C
  | .gaplen => 0x020
  | .sinkPkts => 0x024
  | .sinkCap => 0x028
  | .arg0 => 0x02C
  | .arg1 => 0x030
  | .arg2 => 0x034

/-- Every register, in the order of the map. -/
def Reg.all : List Reg :=
  [.id, .param, .ctrl, .status, .cmd, .strategy, .seqno, .prevSeqno, .gaplen, .sinkPkts, .sinkCap, .arg0, .arg1,
    .arg2]

/-- The register at an offset of the register space; none at a reserved offset (10_state.md R26, R39). -/
def regAt (offset : Nat) : Option Reg := Reg.all.find? fun r => r.offset == offset

/-- The code of a strategy (10_state.md R33). -/
def Strategy.code : Strategy → BitVec 3
  | .silence => 0
  | .repeatPrevious => 1
  | .repeatNext => 2
  | .repeatBoth => 3
  | .spectralInterpolate => 4

/-- The strategy of a code; 5, 6 and 7 are not legal values (10_state.md R33). -/
def Strategy.ofCode (c : BitVec 3) : Option Strategy :=
  if c = 0#3 then some .silence
  else if c = 1#3 then some .repeatPrevious
  else if c = 2#3 then some .repeatNext
  else if c = 3#3 then some .repeatBoth
  else if c = 4#3 then some .spectralInterpolate
  else none

/-- A read of a register: its value, reserved bits 0; CMD reads 0 (20_memory.md R56; 10_state.md R27 to R38). -/
def State.readReg (s : State) : Reg → Word
  | .id => 0x42534D01#32
  | .param => 0x08000140#32
  | .ctrl => s.ctrlWord
  | .status => s.statusWord
  | .cmd => 0#32
  | .strategy => s.strategy.code.setWidth 32
  | .seqno => s.seqno
  | .prevSeqno => s.prevSeqno
  | .gaplen => s.gaplen
  | .sinkPkts => s.sinkPkts
  | .sinkCap => BitVec.ofNat 32 s.sinkCap
  | .arg0 => s.arg0
  | .arg1 => s.arg1
  | .arg2 => s.arg2

/-- A write of STRATEGY: stored when the receiver is Empty and the value is legal, else ignored with CFG_ERR set
(10_state.md R33). -/
def State.writeStrategy (s : State) (v : Word) : State :=
  match s.rsState, Strategy.ofCode (v.extractLsb' 0 3) with
  | .empty, some st => { s with strategy := st }
  | _, _ => { s with cfgErr := true }

/-- A write of a register, with BUSY = 0 or to a register that may be written while BUSY (20_memory.md R57). -/
def State.writeReg (s : State) (v : Word) : Reg → State
  | .id => s
  | .param => s
  | .ctrl => s.writeCtrl v
  | .status => s.writeStatus v
  | .cmd => s.startCommand v
  | .strategy => s.writeStrategy v
  | .seqno => { s with seqno := v }
  | .prevSeqno => s
  | .gaplen => s
  | .sinkPkts => s
  | .sinkCap => s
  | .arg0 => { s with arg0 := v }
  | .arg1 => { s with arg1 := v }
  | .arg2 => { s with arg2 := v }

/-- The access is in the sample space (20_memory.md R50). -/
def Access.inSramSpace (a : Access) : Bool := decide (sramBase ≤ a.offset.toNat)

/-- The access is legal: 32-bit and aligned, or 16-bit, aligned and in the sample space (20_memory.md R54, R55). -/
def Access.legal (a : Access) : Bool :=
  match a.width with
  | .byte => false
  | .half => a.inSramSpace && decide (a.offset.toNat % 2 = 0)
  | .word => decide (a.offset.toNat % 4 = 0)

/-- The registers that may be read while BUSY (20_memory.md R62). -/
def Reg.readableBusy : Reg → Bool
  | .id => true
  | .param => true
  | .ctrl => true
  | .status => true
  | .sinkCap => true
  | .cmd => false
  | .strategy => false
  | .seqno => false
  | .prevSeqno => false
  | .gaplen => false
  | .sinkPkts => false
  | .arg0 => false
  | .arg1 => false
  | .arg2 => false

/-- The registers that may be written while BUSY (20_memory.md R62). -/
def Reg.writableBusy : Reg → Bool
  | .ctrl => true
  | .status => true
  | .id => false
  | .param => false
  | .cmd => false
  | .strategy => false
  | .seqno => false
  | .prevSeqno => false
  | .gaplen => false
  | .sinkPkts => false
  | .sinkCap => false
  | .arg0 => false
  | .arg1 => false
  | .arg2 => false

/-- A legal access is allowed while BUSY (20_memory.md R62); a reserved offset is not in the list, log 13. -/
def Access.allowedBusy (a : Access) : Bool :=
  match regAt a.offset.toNat, a.direction with
  | some r, .read => r.readableBusy
  | some r, .write _ => r.writableBusy
  | none, _ => false

/-- The 16 bits at an offset of the sample space (20_memory.md R52, R58). -/
def State.read16 (s : State) (a : Nat) : BitVec 16 := s.byteAt (a + 1) ++ s.byteAt a

/-- The 32 bits at an offset of the sample space (20_memory.md R52, R58). -/
def State.read32 (s : State) (a : Nat) : Word :=
  s.byteAt (a + 3) ++ s.byteAt (a + 2) ++ s.byteAt (a + 1) ++ s.byteAt a

/-- The low 16 bits of write data as two bytes, lower offset first (20_memory.md R52, R59). -/
def lowBytes (v : Word) : List Byte := [v.extractLsb' 0 8, v.extractLsb' 8 8]

/-- The write data of a 32-bit access as four bytes, lower offset first (20_memory.md R52, R59). -/
def allBytes (v : Word) : List Byte :=
  [v.extractLsb' 0 8, v.extractLsb' 8 8, v.extractLsb' 16 8, v.extractLsb' 24 8]

/-- A legal access that is not refused: what the port answers and what the access does (20_memory.md R56 to R59). A
reserved offset reads as zero and ignores writes (10_state.md R39). -/
def State.perform (s : State) (a : Access) : State × Response :=
  let off := a.offset.toNat
  if a.inSramSpace then
    match a.direction, a.width with
    | .read, .half => (s, .read16 (s.read16 off))
    | .read, _ => (s, .read32 (s.read32 off))
    | .write v, .half => (s.storeBytes off (lowBytes v), .written)
    | .write v, _ => (s.storeBytes off (allBytes v), .written)
  else
    match a.direction, regAt off with
    | .read, some r => (s, .read32 (s.readReg r))
    | .read, none => (s, .read32 0#32)
    | .write v, some r => (s.writeReg v r, .written)
    | .write _, none => (s, .written)

/-- The answer to a refused access: a read returns 0, a write is ignored (20_memory.md R62, R75). -/
def Access.refusal (a : Access) : Response :=
  match a.direction, a.width with
  | .read, .half => .read16 0#16
  | .read, _ => .read32 0#32
  | .write _, _ => .written

/-- One access on the host port, from first check to answer: bus error first, then the refusal while BUSY, then the
access itself (20_memory.md R55, R62, R75). -/
def State.hostAccess (s : State) (a : Access) : State :=
  if !a.legal then { s with response := some .busError }
  else if s.busy && !a.allowedBusy then { s with busyErr := true, response := some a.refusal }
  else { (s.perform a).1 with response := some (s.perform a).2 }

/-- The window offset of a bus address, if the block decodes it (20_memory.md R51). -/
def windowOffset (P : Params) (address : Nat) : Option (BitVec 13) :=
  if P.base ≤ address ∧ address < P.base + 0x2000 then some (BitVec.ofNat 13 (address - P.base)) else none

end Sys2Proof.Machine
end

