-- ==== Sys2Proof/Machine/Script.lean ====
section
/-! DEFINITION. Host scripts: the native statements and pseudo-statements of 30_encoding.md R87 and R88, and their
expansions to moves. -/

namespace Sys2Proof.Machine

/-- A statement of a host script (30_encoding.md R87, R88). -/
inductive Stmt where
  | wr (off : BitVec 13) (val : Word)
  | wr16 (off : BitVec 13) (val : Word)
  | rd (off : BitVec 13)
  | rd16 (off : BitVec 13)
  | command (i : Instr)
  | wait
  | clrst
  | setstrat (s : Word)
  | fillIn (c : Sample)
  | loadIn (v : Vector Sample 320)
  | arrive (s : Word)
  | xfade (d s n : Word)
  | copy (d s n : Word)
  | fill0 (d n : Word)
  | lpwin (a : Word)
  | append
  | smooth
  | clear
deriving DecidableEq, Repr

/-- `wr OFF, VAL` (30_encoding.md R87). -/
def wrEvent (off : BitVec 13) (val : Word) : Event := .host ⟨off, .word, .write val⟩

/-- `wr REG, VAL`: a register's name stands for its offset (30_encoding.md R87). -/
def wrReg (r : Reg) (val : Word) : Event := wrEvent (BitVec.ofNat 13 r.offset) val

/-- `rd OFF` (30_encoding.md R87). -/
def rdEvent (off : BitVec 13) : Event := .host ⟨off, .word, .read⟩

/-- The access of `rd STATUS`. -/
def rdStatus : Access := ⟨BitVec.ofNat 13 Reg.status.offset, .word, .read⟩

/-- The offset that `IN+i`, `PREV+i`, `TAIL+i` or `GP+i` stands for, by sample index (30_encoding.md R87). -/
def sampleName (index : Nat) : BitVec 13 := BitVec.ofNat 13 (sampleOffset index)

/-- `wr CMD, W`, with W the command's word (30_encoding.md R87). -/
def cmdEvent (i : Instr) : Event := wrReg .cmd (encode i)

/-- The 160 writes that load IN, sample `2k` in the low half of write `k` (30_encoding.md R88). -/
def loadEvents (f : Nat → Sample) : List Event :=
  (List.range 160).map fun k => wrEvent (sampleName (2 * k)) (f (2 * k + 1) ++ f (2 * k))

/-- The moves a statement stands for (30_encoding.md R87, R88). -/
def Stmt.expand : Stmt → List Event
  | .wr off val => [wrEvent off val]
  | .wr16 off val => [.host ⟨off, .half, .write val⟩]
  | .rd off => [rdEvent off]
  | .rd16 off => [.host ⟨off, .half, .read⟩]
  | .command i => [cmdEvent i]
  | .wait => [.poll]
  | .clrst => [wrReg .status 0x0000001E#32]
  | .setstrat s => [wrReg .strategy s]
  | .fillIn c => loadEvents fun _ => c
  | .loadIn v => loadEvents fun i => nth v.toList i
  | .arrive s => [wrReg .seqno s, cmdEvent .arrive, .poll]
  | .xfade d s n => [wrReg .arg0 d, wrReg .arg1 s, wrReg .arg2 n, cmdEvent .xfade, .poll]
  | .copy d s n => [wrReg .arg0 d, wrReg .arg1 s, wrReg .arg2 n, cmdEvent .copy, .poll]
  | .fill0 d n => [wrReg .arg0 d, wrReg .arg2 n, cmdEvent .fill0, .poll]
  | .lpwin a => [wrReg .arg0 a, cmdEvent .lpwin, .poll]
  | .append => [cmdEvent .append, .poll]
  | .smooth => [cmdEvent .smooth, .poll]
  | .clear => [cmdEvent .clear, .poll]

/-- The moves of a host script. -/
def script (p : List Stmt) : List Event := p.flatMap Stmt.expand

end Sys2Proof.Machine
end

