-- ==== Sys2Proof/Machine/Turns.lean ====
section
/-! DEFINITION. Whose turn it is, and what each move of the world does (00_scope.md R14; 20_memory.md R69, R70;
60_exceptions.md R205, R222; 70_reset_and_hazards.md R230, R236). -/

namespace Sys2Proof.Machine

/-- The engine's turn: idle while BUSY is 0 (60_exceptions.md R218); else it begins the latched command, decoding
its word (R205; an illegal word completes with ILLEGAL_CMD, 30_encoding.md R83), or goes on with a command that waits
for the sink (20_memory.md R67). -/
def engineTurn (s : State) : Host.Outcome State Fault Refusal :=
  if s.busy then
    match s.work, s.pending with
    | some lines, _ => .next (runActions Config.params lines s)
    | none, some w =>
      match decodeWord w with
      | .ok i => exec i s
      | .error _ => .next (s.raiseError .illegalCmd)
    | none, none => .fault .noCommandLatched
  else .next s

/-- The engine moves: its turn, and no turn while `rst_n` is 0 (70_reset_and_hazards.md R230). -/
def engineMoves (s : State) : Host.Outcome State Fault Refusal :=
  if s.rstAsserted then .next s else engineTurn s

/-- What a move does, once it is taken from the list of moves to come. A host access is answered while `rst_n` is 0
too (20_memory.md R75), but the registers keep their reset values (70_reset_and_hazards.md R230), log 14. -/
def takeEvent (e : Event) (s : State) : Host.Outcome State Fault Refusal :=
  match e with
  | .engine => engineMoves s
  | .host a => .next (s.hostAccess a).held
  | .poll =>
    let t := (s.hostAccess rdStatus).held
    .next (if s.busy then { t with inputs := .engine :: .poll :: t.inputs } else t)
  | .sinkWilling limit => .next { s with sinkAccepts := limit }
  | .newSink content => .next { s with sink := content }
  | .assertReset kept => .next (s.assertReset kept)
  | .releaseReset sram => .next (s.releaseReset sram)

/-- One step of the world: the next listed move, or the engine's turn when no move is listed (log 2). -/
def worldStep (s : State) : Host.Outcome State Fault Refusal :=
  match s.inputs with
  | [] => engineMoves s
  | e :: rest => takeEvent e { s with inputs := rest }

/-- The state in which the host has just written this command word to CMD, with `rst_n` at 1, and the engine moves next
(log 1). -/
def latchForEngine (s : State) (w : Word) : State :=
  { s.startCommand w with rstAsserted := false, inputs := .engine :: s.inputs }

end Sys2Proof.Machine
end

