-- ==== Sys2Proof/Machine/Step.lean ====
section
/-! DEFINITION. One step of the machine, and the state in which its next step runs a given command. -/

namespace Sys2Proof.Machine

/-- One step (three outcomes: next, fault, refused). -/
def step (s : State) : Host.Outcome State Fault Refusal := worldStep s

/-- `s` with a command word where the engine takes its next command from: latched by a CMD write, the engine to move
next (10_state.md R21, R32; 60_exceptions.md R205), log 1. -/
def State.withFetchWord (s : State) (nbits w : Nat) : State := latchForEngine s (tableWord nbits w)

end Sys2Proof.Machine
end

