-- ==== Sys2Proof/Safety.lean ====
section
/-! DEFINITION. What a good state is and what a good run is, in the terms the statements use: the invariant of the
machine, and the pure description of a chain of smoothed packets. -/

namespace Sys2Proof.Machine

/-- A line that appends a packet to the sink. -/
def Action.appends : Action → Bool
  | .append _ => true
  | .loadScratch _ => false
  | .bridge => false
  | .filter _ => false
  | .amend => false
  | .splice _ => false
  | .analyse => false
  | .blend _ _ => false
  | .retain _ _ => false

/-- The packets that lines still to do will append. -/
def packetsIn (lines : List Action) : Nat := lines.countP Action.appends

/-- The packets that the command in flight will still append. -/
def State.packetsToCome (s : State) : Nat :=
  match s.work with
  | some lines => packetsIn lines
  | none => 0

/-- The line that commits an ARRIVE's registers (60_exceptions.md R206). -/
def Action.commits : Action → Bool
  | .retain _ _ => true
  | .append _ => false
  | .loadScratch _ => false
  | .bridge => false
  | .filter _ => false
  | .amend => false
  | .splice _ => false
  | .analyse => false
  | .blend _ _ => false

/-- No line but the last commits registers, so that a command that waits for the sink has committed none. -/
def commitsLast (lines : List Action) : Prop := ∀ a ∈ lines.dropLast, a.commits = false

/-- A line that issues a sink transaction, at which the engine may have to wait (20_memory.md R67). -/
def Action.issues : Action → Bool
  | .append _ => true
  | .amend => true
  | .retain _ _ => false
  | .loadScratch _ => false
  | .bridge => false
  | .filter _ => false
  | .splice _ => false
  | .analyse => false
  | .blend _ _ => false

/-- A move that may end a hang: the sink's change of mind, or the fall of `rst_n` (60_exceptions.md R222). -/
def Event.endsHang : Event → Bool
  | .sinkWilling _ => true
  | .assertReset _ => true
  | .releaseReset _ => false
  | .engine => false
  | .host _ => false
  | .poll => false
  | .newSink _ => false

/-- A good state of an instance. Every step keeps it, and reset has it. -/
structure State.Good (s : State) : Prop where
  /-- The sample memory has its canonical form (10_state.md R40). -/
  memory : s.sram.wf
  /-- BUSY is 1 exactly while a command word is latched (10_state.md R45; 60_exceptions.md R205, R206). -/
  latched : s.busy = s.pending.isSome
  /-- Lines wait only while BUSY. -/
  waiting : s.work.isSome = true → s.busy = true
  /-- A transaction is on the sink port exactly while lines wait (20_memory.md R67). -/
  issued : s.port.isSome = s.work.isSome
  /-- Lines that wait have committed no register (60_exceptions.md R206). -/
  uncommitted : ∀ lines, s.work = some lines → commitsLast lines
  /-- ERRCODE is 0 exactly when ERR is 0 (10_state.md R30; 60_exceptions.md R206). -/
  code : s.err = false ↔ s.errcode = .none
  /-- While BUSY, DONE and ERR are 0 (60_exceptions.md R205, R206). -/
  fresh : s.busy = true → s.done = false ∧ s.err = false
  /-- In the Empty state PREV_SEQNO and GAPLEN read 0 (10_state.md R24, R36; 44_receiver.md R185). -/
  session : s.rsState = .empty → s.prevSeqno = 0 ∧ s.gaplen = 0
  /-- SINK_PKTS, with what the command in flight will still append, never exceeds SINK_CAP_PKTS (10_state.md R37;
  60_exceptions.md R202). -/
  capacity : s.sinkPkts.toNat + s.packetsToCome ≤ s.sinkCap
  /-- Lines that will commit an arrival are those of the latched ARRIVE, with its sequence number (44_receiver.md
  R180). -/
  arrival : ∀ lines, s.work = some lines → ∀ n g, Action.retain n g ∈ lines →
    s.pending = some (encode .arrive) ∧ n = s.seqno
  /-- While `rst_n` is 0 every register and flag has its reset value (70_reset_and_hazards.md R230). -/
  held : s.rstAsserted = true → s = s.underReset

/-- The sink accepts at least `n` further transactions before it withholds acceptance. -/
def State.willAccept (s : State) (n : Nat) : Prop := ∀ k, s.sinkAccepts = some k → n ≤ k

/-- The sink's willingness after it has accepted `n` transactions. -/
def State.acceptsAfter (s : State) (n : Nat) : Option Nat := s.sinkAccepts.map (· - n)

/-- `LP(TAIL ++ P[0..80))` for a tail and a packet (42_smoother.md R140, steps 1 to 5). -/
def smoothed (P : Params) (tail packet : List Sample) : List Sample :=
  (lp P (fixed 160 (tail ++ packet.take half))).toList

/-- What SMOOTHJ sends after a tail for an incoming packet: the amend's data (42_smoother.md R142). -/
def amendData (P : Params) (tail packet : List Sample) : List Sample := (smoothed P tail packet).take half

/-- What SMOOTHJ sends after a tail for an incoming packet: the appended packet (42_smoother.md R144). -/
def smoothedPacket (P : Params) (tail packet : List Sample) : List Sample :=
  (smoothed P tail packet).drop half ++ packet.drop half

/-- The transactions of a chain of SMOOTHJ calls: "the just-written filler becomes 'previous' for the next smoothing
call" (43_concealment.md R167). -/
def smoothedChain (P : Params) : (tail : List Sample) → (packets : List (List Sample)) → List Txn
  | _, [] => []
  | tail, p :: rest =>
    .amend (amendData P tail p) :: .append (smoothedPacket P tail p) ::
      smoothedChain P ((smoothedPacket P tail p).drop 240) rest

/-- RepeatBoth's bridging packet for a previous and an arriving packet, with its internal low-pass
(43_concealment.md R166). -/
def bridgePacket (P : Params) (prev arrival : List Sample) : List Sample :=
  let raw := prev.drop 160 ++ arrival.take 160
  raw.take 80 ++ (lp P (fixed 160 ((raw.drop 80).take 160))).toList ++ raw.drop 240

/-- The `k`-th packet SpectralInterpolate synthesizes for a gap of `g` (43_concealment.md R168). -/
def spectralPacket (P : Params) (g k : Nat) (prev arrival : List Sample) : List Sample :=
  (P.inv320 (blendSpectra g k (P.fwd320 (fixed 320 prev)) (P.fwd320 (fixed 320 arrival)))).toList

/-- The sink transactions of one ARRIVE with a gap of `g`, per strategy (43_concealment.md R170). -/
def arrivalTxns (P : Params) (g : Nat) (st : Strategy) (tail prev arrival : List Sample) : List Txn :=
  let silence := silentPacket
  match g, st with
  | 0, _ => [.append arrival]
  | g, .silence => List.replicate g (.append silence) ++ [.append arrival]
  | g, .repeatPrevious => .append prev :: List.replicate (g - 1) (.append silence) ++ [.append arrival]
  | g, .repeatNext => List.replicate (g - 1) (.append silence) ++ [.append arrival, .append arrival]
  | 1, .repeatBoth => smoothedChain P tail [bridgePacket P prev arrival, arrival]
  | g, .repeatBoth => smoothedChain P tail (prev :: List.replicate (g - 2) silence ++ [arrival, arrival])
  | g, .spectralInterpolate =>
    ((List.range g).map fun k => .append (spectralPacket P g k prev arrival)) ++ [.append arrival]

/-- TAIL equals the last 80 samples of the sink (10_state.md R42). -/
def State.tailMirrors (s : State) : Prop :=
  half ≤ s.sink.length ∧ s.tailRegion = s.sink.drop (s.sink.length - half)

end Sys2Proof.Machine
end

