-- ==== Sys2Proof/Certificates/Slice0/Obligations.lean ====
section
/-! DEFINITION. The statements about the model, for the provers. Where a statement names the model's own choice, its
docstring says so and names the log entry. -/

open Sys2Proof Sys2Proof.Machine

/-! ### Encoding -/

/-- 30_encoding.md R84: the decoding of every 32-bit word. -/
def Obligations.DecodeFollowsTheOpcodeMap : Prop :=
  ∀ v : Word,
    (v.extractLsb' 4 28 ≠ 0#28 → decodeWord v = .error .reservedBits) ∧
    (v.extractLsb' 4 28 = 0#28 →
      (v.extractLsb' 0 4 = 0x0#4 → decodeWord v = .ok .nop) ∧
      (v.extractLsb' 0 4 = 0x1#4 → decodeWord v = .ok .arrive) ∧
      (v.extractLsb' 0 4 = 0x2#4 → decodeWord v = .ok .clear) ∧
      (v.extractLsb' 0 4 = 0x3#4 → decodeWord v = .ok .append) ∧
      (v.extractLsb' 0 4 = 0x4#4 → decodeWord v = .ok .smooth) ∧
      (v.extractLsb' 0 4 = 0x5#4 → decodeWord v = .ok .xfade) ∧
      (v.extractLsb' 0 4 = 0x6#4 → decodeWord v = .ok .copy) ∧
      (v.extractLsb' 0 4 = 0x7#4 → decodeWord v = .ok .fill0) ∧
      (v.extractLsb' 0 4 = 0x8#4 → decodeWord v = .ok .lpwin) ∧
      (0x9#4 ≤ v.extractLsb' 0 4 → decodeWord v = .error .reservedOpcode))

/-- A word is legal only as the one word that 30_encoding.md R82 gives a command, so no bit of a word is dropped; and
decoding a command's bytes gives the command back, whatever bytes follow. -/
def Obligations.DecodeAndEncodeAgree : Prop :=
  (∀ (v : Word) (i : Instr), decodeWord v = .ok i ↔ v = encode i) ∧
  (∀ (i : Instr) (rest : List Byte), decode (encodeBytes i ++ rest) = .ok (i, rest))

/-- A few bytes from the `word` column of 30_encoding.md R82, little-endian, and two illegal words (R83). -/
def Obligations.SpecWordsDecodeAsTheSpecSays : Prop :=
  decode [0x01, 0x00, 0x00, 0x00] = .ok (.arrive, []) ∧
  decode [0x04, 0x00, 0x00, 0x00] = .ok (.smooth, []) ∧
  decode [0x05, 0x00, 0x00, 0x00] = .ok (.xfade, []) ∧
  decode [0x08, 0x00, 0x00, 0x00] = .ok (.lpwin, []) ∧
  decode [0x09, 0x00, 0x00, 0x00] = .error .reservedOpcode ∧
  decode [0x01, 0x00, 0x00, 0x80] = .error .reservedBits

/-! ### Steps -/

/-- The engine's turn runs the command whose word is latched (60_exceptions.md R205) while `rst_n` is 1, both when its turn
is the next listed move and when no move is listed (log 2). -/
def Obligations.StepRunsTheLatchedCommand : Prop :=
  ∀ (s : State) (w : Word) (i : Instr) (rest : List Event),
    s.rstAsserted = false → s.busy = true → s.work = none → s.pending = some w → decodeWord w = .ok i →
    (s.inputs = .engine :: rest → step s = exec i { s with inputs := rest }) ∧
    (s.inputs = [] → step s = exec i s)

/-- A legal command word placed for the engine is what the very next step runs, in the state its CMD write leaves with
`rst_n` at 1 (60_exceptions.md R205); how it is placed is the model's own (log 1). -/
def Obligations.PlacedCommandRunsNext : Prop :=
  ∀ (s : State) (i : Instr),
    step (s.withFetchWord 32 (encode i).toNat) = exec i { s.startCommand (encode i) with rstAsserted := false }

/-- An illegal command word completes with ILLEGAL_CMD and no other effect (30_encoding.md R83; 60_exceptions.md
R206), both when the engine's turn is the next listed move and when no move is listed (log 2). -/
def Obligations.IllegalWordCompletesWithItsCode : Prop :=
  ∀ (s : State) (w : Word) (rest : List Event),
    s.rstAsserted = false → s.busy = true → s.work = none → s.pending = some w → legalWord w = false →
    let completed :=
      { s with
        err := true
        errcode := .illegalCmd
        done := true
        busy := false
        pending := none
        work := none
        port := none }
    (s.inputs = .engine :: rest → step s = .next { completed with inputs := rest }) ∧
    (s.inputs = [] → step s = .next completed)

/-- Between commands the engine is idle: its turn changes nothing (60_exceptions.md R218; 70_reset_and_hazards.md
R233: after reset the block waits for host accesses). -/
def Obligations.IdleEngineChangesNothing : Prop :=
  (∀ (s : State) (rest : List Event), s.busy = false → s.inputs = .engine :: rest →
      step s = .next { s with inputs := rest }) ∧
  (∀ s : State, s.busy = false → s.inputs = [] → step s = .next s) ∧
  (∀ k : Nat, core.run k State.reset = .next State.reset)

/-! ### Receiver commands -/

/-- 44_receiver.md R186 with 60_exceptions.md R206: NOP has no effect but completion. -/
def Obligations.NopOnlyCompletes : Prop :=
  ∀ s : State, exec .nop s = .next
    { s with done := true, busy := false, pending := none, work := none, port := none }

/-- 44_receiver.md R185 with 60_exceptions.md R206: CLEAR's result, every other field unchanged. -/
def Obligations.ClearEndsTheSession : Prop :=
  ∀ s : State, exec .clear s = .next
    { s with
      rsState := .empty
      prevSeqno := 0
      gaplen := 0
      sinkPkts := 0
      done := true
      busy := false
      pending := none
      work := none
      port := none }

/-- 44_receiver.md R184, 60_exceptions.md R202 and R204: ARRIVE in Tracking with SEQNO ≤ PREV_SEQNO raises SEQ_ORDER, whether
or not the sink has room; in order it raises SINK_FULL when `g + 1` packets do not fit, with `g` the exact gap; nothing
else changes. -/
def Obligations.ArriveRaisesItsErrors : Prop :=
  ∀ s : State,
    let failed := fun c : ErrCode =>
      { s with
        err := true
        errcode := c
        done := true
        busy := false
        pending := none
        work := none
        port := none }
    (s.rsState = .tracking → s.seqno.toNat ≤ s.prevSeqno.toNat → exec .arrive s = .next (failed .seqOrder)) ∧
    (s.rsState = .empty → s.sinkCap < s.sinkPkts.toNat + 1 → exec .arrive s = .next (failed .sinkFull)) ∧
    (s.rsState = .tracking → s.prevSeqno.toNat < s.seqno.toNat →
      s.sinkCap < s.sinkPkts.toNat + (s.seqno.toNat - s.prevSeqno.toNat - 1) + 1 →
      exec .arrive s = .next (failed .sinkFull))

/-- 44_receiver.md R182 and R183: an ARRIVE with no gap (the first of a session, or the next sequence number)
completes: it appends IN without smoothing, whatever the strategy, and retains it. -/
def Obligations.ArriveWithoutGapAppendsIn : Prop :=
  ∀ s : State,
    (s.rsState = .empty ∨ s.rsState = .tracking ∧ s.seqno.toNat = s.prevSeqno.toNat + 1) →
    s.sinkPkts.toNat + 1 ≤ s.sinkCap → s.willAccept 1 →
    exec .arrive s = .next
      { (s.storeSamples 640 (s.inRegion.drop 240)).storeSamples 320 s.inRegion with
        sink := s.sink ++ s.inRegion
        trace := s.trace ++ [.append s.inRegion]
        sinkAccepts := s.acceptsAfter 1
        sinkPkts := s.sinkPkts + 1
        prevSeqno := s.seqno
        gaplen := 0
        rsState := .tracking
        done := true
        busy := false
        pending := none
        work := none
        port := none }

/-- 43_concealment.md R170: an ARRIVE that is in order, has room and is not delayed completes, having sent exactly
the transactions that its gap and strategy call for, from TAIL, PREV and IN as they were at its start, and the sink
holds what those transactions, one after the other, make of it (20_memory.md R64, R65). -/
def Obligations.ArriveSendsItsStrategysTransactions : Prop :=
  ∀ s : State,
    s.outOfOrder = false → s.sinkPkts.toNat + (s.gap + 1) ≤ s.sinkCap →
    let txns := arrivalTxns Config.params s.gap s.strategy s.tailRegion s.prevRegion s.inRegion
    s.willAccept txns.length →
    ∃ t, exec .arrive s = .next t ∧ t.busy = false ∧ t.done = true ∧ t.err = s.err ∧ t.trace = s.trace ++ txns ∧
      t.sink = txns.foldl (fun content txn => txn.onSink content) s.sink ∧
      t.sinkAccepts = s.acceptsAfter txns.length

/-- 43_concealment.md R162, R163 and R164: what a gap of `g` puts on the sink. Silence: `g` silent packets and IN;
RepeatPrevious: PREV, `g − 1` silent packets and IN; RepeatNext: `g − 1` silent packets and IN twice. -/
def Obligations.SilenceAndRepeatFills : Prop :=
  ∀ s : State,
    s.outOfOrder = false → 1 ≤ s.gap → s.sinkPkts.toNat + (s.gap + 1) ≤ s.sinkCap → s.willAccept (s.gap + 1) →
    ∃ t, exec .arrive s = .next t ∧
      (s.strategy = .silence → t.sink = s.sink ++ List.replicate (320 * s.gap) 0 ++ s.inRegion) ∧
      (s.strategy = .repeatPrevious →
        t.sink = s.sink ++ s.prevRegion ++ List.replicate (320 * (s.gap - 1)) 0 ++ s.inRegion) ∧
      (s.strategy = .repeatNext →
        t.sink = s.sink ++ List.replicate (320 * (s.gap - 1)) 0 ++ s.inRegion ++ s.inRegion)

/-- 43_concealment.md R168: with SpectralInterpolate a gap of `g` puts the `g` blends of the two spectra and IN on the
sink, with no amend; between two equal packets each blend is that packet, up to the round-trip tolerance of this
instance's transform (41_transform_lowpass.md R122). -/
def Obligations.SpectralFillsWithBlends : Prop :=
  ∀ s : State,
    s.outOfOrder = false → s.strategy = .spectralInterpolate → 1 ≤ s.gap →
    s.sinkPkts.toNat + (s.gap + 1) ≤ s.sinkCap → s.willAccept (s.gap + 1) →
    ∃ t, exec .arrive s = .next t ∧
      t.sink = s.sink ++
        ((List.range s.gap).flatMap fun k =>
          (Config.params.inv320 (fixed 320 ((List.range 320).map fun j =>
            let cp := nth (Config.params.fwd320 (fixed 320 s.prevRegion)).toList j
            let ca := nth (Config.params.fwd320 (fixed 320 s.inRegion)).toList j
            BitVec.ofInt 32
              (tdiv (((s.gap - k : Nat) : Int) * cp.toInt + ((k : Int) + 1) * ca.toInt) (s.gap + 1))))).toList) ++
        s.inRegion ∧
      (s.prevRegion = s.inRegion → ∀ k < s.gap, ∀ j < 320,
        ((nth t.sink (s.sink.length + 320 * k + j)).toInt - (nth s.inRegion j).toInt).natAbs ≤ Config.params.tol)

/-- 43_concealment.md R169: for every strategy, an ARRIVE with gap `g` that is in order and has room appends exactly
`g + 1` packets: SINK_PKTS counts them, and a sink that holds a packet grows by 320 samples for each. -/
def Obligations.EveryStrategyAppendsGapPlusOne : Prop :=
  ∀ s t : State,
    s.outOfOrder = false → s.sinkPkts.toNat + (s.gap + 1) ≤ s.sinkCap →
    exec .arrive s = .next t → t.work = none →
    t.sinkPkts.toNat = s.sinkPkts.toNat + (s.gap + 1) ∧
    (half ≤ s.sink.length → t.sink.length = s.sink.length + 320 * (s.gap + 1))

/-- 44_receiver.md R181: after a successful ARRIVE PREV holds IN as it was appended, PREV_SEQNO the sequence number,
GAPLEN the exact gap, and RS_STATE is Tracking; IN itself changes only in its first 80 samples, and only when
RepeatBoth filled a gap (10_state.md R41). -/
def Obligations.ArriveRetainsTheArrival : Prop :=
  ∀ s t : State,
    s.outOfOrder = false → s.sinkPkts.toNat + (s.gap + 1) ≤ s.sinkCap →
    exec .arrive s = .next t → t.work = none →
    t.rsState = .tracking ∧ t.prevSeqno = s.seqno ∧ t.gaplen.toNat = s.gap ∧
    t.prevRegion = t.inRegion ∧ t.trace.getLast? = some (.append t.inRegion) ∧
    t.inRegion.drop half = s.inRegion.drop half ∧
    (s.gap = 0 ∨ s.strategy ≠ .repeatBoth → t.inRegion = s.inRegion)

/-! ### Smoother commands -/

/-- 42_smoother.md R147: APPEND's result when the sink has room and is not delayed, every other field unchanged. -/
def Obligations.AppendSendsIn : Prop :=
  ∀ s : State, s.sinkPkts.toNat + 1 ≤ s.sinkCap → s.willAccept 1 →
    exec .append s = .next
      { s.storeSamples 640 (s.inRegion.drop 240) with
        sink := s.sink ++ s.inRegion
        trace := s.trace ++ [.append s.inRegion]
        sinkAccepts := s.acceptsAfter 1
        sinkPkts := s.sinkPkts + 1
        done := true
        busy := false
        pending := none
        work := none
        port := none }

/-- 42_smoother.md R140 to R144 and R148: SMOOTH's result when a packet is written, the sink has room and is not
delayed, every other field unchanged. -/
def Obligations.SmoothSendsTheSmoothedJunction : Prop :=
  ∀ s : State, s.sinkPkts ≠ 0 → s.sinkPkts.toNat + 1 ≤ s.sinkCap → s.willAccept 2 →
    let w := fixed 160 (s.tailRegion ++ s.inRegion.take 80)
    let r := lp Config.params w
    let packet := r.toList.drop 80 ++ s.inRegion.drop 80
    exec .smooth s = .next
      { ((s.storeSamples 640 (r.toList.take 80)).storeSamples 0 (r.toList.drop 80)).storeSamples 640
          (packet.drop 240) with
        scratchW := w
        scratchR := r
        sink := (Txn.amend (r.toList.take 80)).onSink s.sink ++ packet
        trace := s.trace ++ [.amend (r.toList.take 80), .append packet]
        sinkAccepts := s.acceptsAfter 2
        sinkPkts := s.sinkPkts + 1
        done := true
        busy := false
        pending := none
        work := none
        port := none }

/-- 42_smoother.md R147 and R148, 60_exceptions.md R204: APPEND with no room raises SINK_FULL; SMOOTH with nothing
written raises NO_TAIL, whether or not the sink has room, and with no room SINK_FULL; nothing else changes. -/
def Obligations.SmootherCommandsRaiseTheirErrors : Prop :=
  ∀ s : State,
    let failed := fun c : ErrCode =>
      { s with
        err := true
        errcode := c
        done := true
        busy := false
        pending := none
        work := none
        port := none }
    (s.sinkCap < s.sinkPkts.toNat + 1 → exec .append s = .next (failed .sinkFull)) ∧
    (s.sinkPkts = 0 → exec .smooth s = .next (failed .noTail)) ∧
    (s.sinkPkts ≠ 0 → s.sinkCap < s.sinkPkts.toNat + 1 → exec .smooth s = .next (failed .sinkFull))

/-- 20_memory.md R67: while the sink withholds acceptance APPEND waits: BUSY keeps its value, the transaction stands on
the sink port, and neither the sink nor SINK_PKTS nor the memory changes. -/
def Obligations.WithheldAppendWaits : Prop :=
  ∀ s : State, s.sinkPkts.toNat + 1 ≤ s.sinkCap → s.sinkAccepts = some 0 →
    ∃ lines, exec .append s = .next { s with port := some (.append s.inRegion), work := some lines }

/-! ### Buffer and window commands -/

/-- 40_buffer_utilities.md R105: XFADE's result when both ranges fit, every other field unchanged. -/
def Obligations.XfadeStoresTheCrossfade : Prop :=
  ∀ s : State,
    s.arg0.toNat + s.arg2.toNat ≤ 2048 → s.arg1.toNat + s.arg2.toNat ≤ 2048 →
    exec .xfade s = .next
      { s.storeSamples s.arg0.toNat
          (xf (s.samples s.arg0.toNat s.arg2.toNat) (s.samples s.arg1.toNat s.arg2.toNat) s.arg2.toNat) with
        done := true
        busy := false
        pending := none
        work := none
        port := none }

/-- 40_buffer_utilities.md R103 and R106: COPY's result when both ranges fit, sources read before any write, every
other field unchanged. -/
def Obligations.CopyStoresTheSource : Prop :=
  ∀ s : State,
    s.arg0.toNat + s.arg2.toNat ≤ 2048 → s.arg1.toNat + s.arg2.toNat ≤ 2048 →
    exec .copy s = .next
      { s.storeSamples s.arg0.toNat (s.samples s.arg1.toNat s.arg2.toNat) with
        done := true
        busy := false
        pending := none
        work := none
        port := none }

/-- 40_buffer_utilities.md R107: FILL0's result when its range fits, every other field unchanged. -/
def Obligations.FillStoresSilence : Prop :=
  ∀ s : State, s.arg0.toNat + s.arg2.toNat ≤ 2048 →
    exec .fill0 s = .next
      { s.storeSamples s.arg0.toNat (List.replicate s.arg2.toNat 0) with
        done := true
        busy := false
        pending := none
        work := none
        port := none }

/-- 41_transform_lowpass.md R126: LPWIN's result when its window fits; what it leaves in scratch is the model's own
(log 15), every other field unchanged. -/
def Obligations.LpwinStoresTheLowpass : Prop :=
  ∀ s : State, s.arg0.toNat + 160 ≤ 2048 →
    let w := fixed 160 (s.samples s.arg0.toNat 160)
    exec .lpwin s = .next
      { s.storeSamples s.arg0.toNat (lp Config.params w).toList with
        scratchW := w
        scratchR := lp Config.params w
        done := true
        busy := false
        pending := none
        work := none
        port := none }

/-- 40_buffer_utilities.md R104: a range that does not fit raises RANGE, and nothing else changes. -/
def Obligations.RangesThatDoNotFitRaiseRange : Prop :=
  ∀ s : State,
    let failed :=
      { s with
        err := true
        errcode := .range
        done := true
        busy := false
        pending := none
        work := none
        port := none }
    (2048 < s.arg0.toNat + s.arg2.toNat ∨ 2048 < s.arg1.toNat + s.arg2.toNat →
      exec .xfade s = .next failed ∧ exec .copy s = .next failed) ∧
    (2048 < s.arg0.toNat + s.arg2.toNat → exec .fill0 s = .next failed) ∧
    (2048 < s.arg0.toNat + 160 → exec .lpwin s = .next failed)

/-- The frame of the buffer and window commands, on bytes and samples: XFADE, COPY, FILL0 and LPWIN change no byte outside
`SRAM[d .. d+n)`, with `d` = ARG0 and `n` = ARG2 (160 for LPWIN), and inside it COPY and FILL0 leave the copied
samples and zeros (40_buffer_utilities.md R105 to R107; 41_transform_lowpass.md R126). -/
def Obligations.BufferCommandsStoreOnlyTheirRange : Prop :=
  ∀ s t : State,
    let outside := fun (n a : Nat) => a < 0x1000 + 2 * s.arg0.toNat ∨ 0x1000 + 2 * (s.arg0.toNat + n) ≤ a
    (exec .xfade s = .next t → ∀ a, outside s.arg2.toNat a → t.byteAt a = s.byteAt a) ∧
    (exec .copy s = .next t → ∀ a, outside s.arg2.toNat a → t.byteAt a = s.byteAt a) ∧
    (exec .fill0 s = .next t → ∀ a, outside s.arg2.toNat a → t.byteAt a = s.byteAt a) ∧
    (exec .lpwin s = .next t → ∀ a, outside 160 a → t.byteAt a = s.byteAt a) ∧
    (exec .copy s = .next t → t.errcode ≠ .range → ∀ k < s.arg2.toNat,
      t.sampleAt (s.arg0.toNat + k) = s.sampleAt (s.arg1.toNat + k)) ∧
    (exec .fill0 s = .next t → t.errcode ≠ .range → ∀ k < s.arg2.toNat, t.sampleAt (s.arg0.toNat + k) = 0)

/-! ### The numeric datapath -/

/-- 40_buffer_utilities.md R101: the endpoints of a crossfade. -/
def Obligations.CrossfadeEndpoints : Prop :=
  ∀ (dst src : List Sample) (L : Nat), dst.length = L → src.length = L →
    (1 ≤ L → (xf dst src L)[0]? = src[0]?) ∧ (2 ≤ L → (xf dst src L)[L - 1]? = dst[L - 1]?)

/-- 40_buffer_utilities.md R102: each sample of a crossfade of two arrays of length `L ≥ 2` is the truncated exact quotient,
unsaturated; the quotient (`L − 1` times each sample bounds its numerator) and the stored sample lie between `src[i]`
and `dst[i]`; the crossfade of an array with itself is the array. -/
def Obligations.CrossfadeNeverSaturates : Prop :=
  (∀ (dst src : List Sample) (L i : Nat) (d s : Sample), 2 ≤ L → dst.length = L → src.length = L →
    dst[i]? = some d → src[i]? = some s →
    let numerator := ((L - 1 - i : Nat) : Int) * s.toInt + (i : Int) * d.toInt
    ((L - 1 : Nat) : Int) * min s.toInt d.toInt ≤ numerator ∧ numerator ≤ ((L - 1 : Nat) : Int) * max s.toInt d.toInt ∧
    ∃ v : Sample, (xf dst src L)[i]? = some v ∧ v.toInt = tdiv numerator (L - 1) ∧
      min s.toInt d.toInt ≤ v.toInt ∧ v.toInt ≤ max s.toInt d.toInt) ∧
  (∀ x : List Sample, xf x x x.length = x)

/-- 43_concealment.md R168: each blended coefficient lies between its two coefficients. -/
def Obligations.BlendLiesBetweenItsSpectra : Prop :=
  ∀ (g k : Nat) (cp ca : Coef), k < g →
    (blendCoef g k cp ca).toInt = tdiv (((g - k : Nat) : Int) * cp.toInt + ((k : Int) + 1) * ca.toInt) (g + 1) ∧
    min cp.toInt ca.toInt ≤ (blendCoef g k cp ca).toInt ∧ (blendCoef g k cp ca).toInt ≤ max cp.toInt ca.toInt

/-- 41_transform_lowpass.md R128: what holds of `LP(W)` for every transform parameter. -/
def Obligations.LowpassEdges : Prop :=
  ∀ (P : Params) (w : Vector Sample 160),
    let filtered := P.inv160 (fixed 160 ((P.fwd160 w).toList.take 80 ++ List.replicate 80 0))
    (lp P w)[0] = w[0] ∧ (lp P w)[79] = filtered[79] ∧ (lp P w).toList.drop 80 = filtered.toList.drop 80

/-- 41_transform_lowpass.md R127: under TC_ID the low-pass keeps the first half of the window and zeroes the second, and
TC_ID meets the round-trip property with tolerance 0. -/
def Obligations.IdentityConfigurationLowpass : Prop :=
  ∀ (P : Params) (w : Vector Sample 160),
    (lp (tcId P) w).toList = w.toList.take 80 ++ List.replicate 80 0 ∧
    (tcId P).RoundTrip ∧ (tcId P).tol = 0

/-- 41_transform_lowpass.md R129: under TC_REV the low-pass fades the first half of the window to 0 and keeps the second,
and TC_REV meets the round-trip property with tolerance 0. -/
def Obligations.ReversalConfigurationLowpass : Prop :=
  ∀ (P : Params) (w : Vector Sample 160),
    (lp (tcRev P) w).toList =
      ((List.range 80).map fun i => BitVec.ofInt 16 (tdiv (((79 - i : Nat) : Int) * (nth w.toList i).toInt) 79)) ++
        w.toList.drop 80 ∧
    (tcRev P).RoundTrip ∧ (tcRev P).tol = 0

/-! ### Rules over all commands -/

/-- 10_state.md R20, R34 and R35, 60_exceptions.md R209: no command writes an operand register, STRATEGY, CTRL or a sticky
flag; nor does it touch the host's side. -/
def Obligations.NoCommandWritesItsOperands : Prop :=
  ∀ (i : Instr) (s t : State), exec i s = .next t →
    t.seqno = s.seqno ∧ t.strategy = s.strategy ∧ t.arg0 = s.arg0 ∧ t.arg1 = s.arg1 ∧ t.arg2 = s.arg2 ∧
    t.doneIE = s.doneIE ∧ t.errIE = s.errIE ∧ t.busyErr = s.busyErr ∧ t.cfgErr = s.cfgErr ∧
    t.sinkCap = s.sinkCap ∧ t.inputs = s.inputs ∧ t.response = s.response ∧ t.resets = s.resets ∧
    t.rstAsserted = s.rstAsserted

/-- 60_exceptions.md R203: a command that fails changes nothing but STATUS and what completion clears. -/
def Obligations.CommandErrorsArePrecise : Prop :=
  ∀ (i : Instr) (s t : State), exec i s = .next t → s.err = false → t.err = true →
    ∃ code : ErrCode, code ≠ .none ∧ code ≠ .illegalCmd ∧
      t = { s with
            err := true
            errcode := code
            done := true
            busy := false
            pending := none
            work := none
            port := none }

/-- 60_exceptions.md R206 and R222: every command answers a next state, in which it has completed or waits for a sink
that withholds acceptance. -/
def Obligations.EveryCommandCompletesOrWaits : Prop :=
  ∀ (i : Instr) (s : State), ∃ t, exec i s = .next t ∧
    ((t.done = true ∧ t.busy = false ∧ t.pending = none ∧ t.work = none ∧ t.port = none) ∨
      (t.done = s.done ∧ t.busy = s.busy ∧ t.pending = s.pending ∧ t.work.isSome = true ∧ t.port.isSome = true ∧
        t.sinkAccepts = some 0))

/-- The memory frame of the commands that have no buffer operand, by byte: NOP and CLEAR change no byte; APPEND only TAIL;
SMOOTH only TAIL and IN[0..80); ARRIVE only TAIL, PREV and IN[0..80) (10_state.md R41 to R43; 42_smoother.md R143). -/
def Obligations.SinkCommandsMemoryFrame : Prop :=
  ∀ (s t : State) (a : Nat),
    let inTail := 0x1500 ≤ a ∧ a < 0x15A0
    let inHead := 0x1000 ≤ a ∧ a < 0x10A0
    let inPrev := 0x1280 ≤ a ∧ a < 0x1500
    (exec .nop s = .next t → t.byteAt a = s.byteAt a) ∧
    (exec .clear s = .next t → t.byteAt a = s.byteAt a) ∧
    (exec .append s = .next t → ¬ inTail → t.byteAt a = s.byteAt a) ∧
    (exec .smooth s = .next t → ¬ inTail → ¬ inHead → t.byteAt a = s.byteAt a) ∧
    (exec .arrive s = .next t → ¬ inTail → ¬ inHead → ¬ inPrev → t.byteAt a = s.byteAt a)

/-- 42_smoother.md R142: no command changes the sink before its last 80 samples, and none makes it shorter. -/
def Obligations.NoCommandChangesEarlierSinkData : Prop :=
  ∀ (i : Instr) (s t : State), exec i s = .next t →
    t.sink.take (s.sink.length - 80) = s.sink.take (s.sink.length - 80) ∧
    (80 ≤ s.sink.length → s.sink.length ≤ t.sink.length)

/-- 10_state.md R42: SinkAppend and SinkAmend keep TAIL equal to the last 80 samples of the sink, through every command
that sends to it, also while it waits; and APPEND makes it so. -/
def Obligations.TailMirrorsTheSink : Prop :=
  (∀ (i : Instr) (s t : State), i = .append ∨ i = .smooth ∨ i = .arrive → exec i s = .next t →
    s.tailMirrors → t.tailMirrors) ∧
  (∀ s t : State, exec .append s = .next t → s.sinkPkts.toNat + 1 ≤ s.sinkCap → s.willAccept 1 →
    t.tailMirrors)

/-- 20_memory.md R69 and 70_reset_and_hazards.md R243: however often the sink delays a command, its result is the one it has
when the sink never delays it. The first clause says so of a command delayed once; the second says that what a waiting
command would give if no more delayed is not changed by one more delay, so the two cover any number of delays. The last
two say what the moves are by which a delayed command goes on: the engine's turn while `rst_n` is 1, listed or not
(log 2), and the sink's change of mind (20_memory.md R67), which changes nothing else, as another sink put in its place
changes only the content (70_reset_and_hazards.md R236). -/
def Obligations.DelayedCommandHasTheSameResult : Prop :=
  (∀ (i : Instr) (s t : State) (n : Nat), s.busy = true →
    exec i { s with sinkAccepts := some n } = .next t → t.busy = true →
    t.work.isSome = true ∧ engineTurn { t with sinkAccepts := none } = exec i { s with sinkAccepts := none }) ∧
  (∀ (t u : State) (m : Nat), t.busy = true → t.work.isSome = true →
    engineTurn { t with sinkAccepts := some m } = .next u → u.busy = true →
    u.work.isSome = true ∧ engineTurn { u with sinkAccepts := none } = engineTurn { t with sinkAccepts := none }) ∧
  (∀ (s : State) (rest : List Event), s.rstAsserted = false →
    (s.inputs = .engine :: rest → step s = engineTurn { s with inputs := rest }) ∧
    (s.inputs = [] → step s = engineTurn s)) ∧
  (∀ (s : State) (rest : List Event),
    (∀ limit, s.inputs = .sinkWilling limit :: rest → step s = .next { s with inputs := rest, sinkAccepts := limit }) ∧
    (∀ content, s.inputs = .newSink content :: rest → step s = .next { s with inputs := rest, sink := content }))

/-- 60_exceptions.md R222: a command that waits for a sink which never accepts stays BUSY for ever, with DONE and `irq` 0,
whatever the host does, unless reset comes. -/
def Obligations.WithheldSinkHangsTheCommand : Prop :=
  ∀ (s : State) (a : Action) (rest : List Action),
    s.rstAsserted = false → s.busy = true → s.done = false → s.err = false → s.work = some (a :: rest) →
    a.issues = true →
    s.sinkAccepts = some 0 → (∀ e ∈ s.inputs, e.endsHang = false) →
    ∀ k : Nat, ∃ t, core.run k s = .next t ∧ t.busy = true ∧ t.done = false ∧ t.irq = false ∧ t.trace = s.trace

/-! ### The host port -/

/-- 20_memory.md R55: an illegal access gets a bus error and changes nothing, BUSY or not. -/
def Obligations.IllegalAccessGetsABusError : Prop :=
  ∀ (s : State) (a : Access),
    (a.width = .byte ∨ (a.width = .half ∧ (a.offset.toNat < 0x1000 ∨ a.offset.toNat % 2 = 1)) ∨
      (a.width = .word ∧ a.offset.toNat % 4 ≠ 0)) →
    s.hostAccess a = { s with response := some .busError }

/-- 20_memory.md R62: while BUSY, ID, PARAM, CTRL, STATUS and SINK_CAP read as they are, CTRL and STATUS are written, and
every other legal access is refused: it answers 0 or is ignored, and sets BUSY_ERR. -/
def Obligations.BusyBlockRefusesOtherAccesses : Prop :=
  ∀ (s : State) (a : Access), s.busy = true → a.legal = true →
    let off := a.offset.toNat
    (a.direction = .read →
      (off = 0x000 → s.hostAccess a = { s with response := some (.read32 0x42534D01#32) }) ∧
      (off = 0x004 → s.hostAccess a = { s with response := some (.read32 0x08000140#32) }) ∧
      (off = 0x008 → s.hostAccess a = { s with response := some (.read32 s.ctrlWord) }) ∧
      (off = 0x00C → s.hostAccess a = { s with response := some (.read32 s.statusWord) }) ∧
      (off = 0x028 → s.hostAccess a =
        { s with response := some (.read32 (BitVec.ofNat 32 s.sinkCap)) }) ∧
      (off ≠ 0x000 → off ≠ 0x004 → off ≠ 0x008 → off ≠ 0x00C → off ≠ 0x028 →
        s.hostAccess a =
          { s with
            busyErr := true
            response := some (if a.width = .half then .read16 0#16 else .read32 0#32) })) ∧
    (∀ v, a.direction = .write v →
      (off = 0x008 → s.hostAccess a = { s.writeCtrl v with response := some .written }) ∧
      (off = 0x00C → s.hostAccess a = { s.writeStatus v with response := some .written }) ∧
      (off ≠ 0x008 → off ≠ 0x00C →
        s.hostAccess a = { s with busyErr := true, response := some .written }))

/-- 20_memory.md R56 and R57, 10_state.md R26, R29, R34, R35 and R39: with `rst_n` = 1 and BUSY = 0, what an aligned 32-bit
read of the register space returns, a read having no side effect; and what a write of CTRL, SEQNO, ARG0, ARG1 and ARG2
does, the write of a read-only register or of a reserved offset doing nothing. The writes of STATUS, CMD and STRATEGY
have statements of their own. The first clause says that a step with `rst_n` at 1 makes the listed access, whole and
whatever it is, BUSY or not; so it carries this statement and those after it to steps. `wait` is the read of STATUS, made
again while BUSY is 1 (30_encoding.md R88); that the engine has one turn between two reads is the model's choice
(log 23). -/
def Obligations.RegisterAccessesReadAndWriteTheRegisters : Prop :=
  (∀ (s : State) (rest : List Event), s.rstAsserted = false →
    (∀ a : Access, s.inputs = .host a :: rest → step s = .next (State.hostAccess { s with inputs := rest } a)) ∧
    (s.inputs = .poll :: rest → step s = .next
      { s with
        inputs := if s.busy then .engine :: .poll :: rest else rest
        response := some (.read32 s.statusWord) })) ∧
  ∀ (s : State) (off : BitVec 13), s.busy = false → off.toNat % 4 = 0 → off.toNat < 0x1000 →
    s.hostAccess ⟨off, .word, .read⟩ =
      { s with
        response := some (.read32 (
          if off = 0x000 then 0x42534D01#32
          else if off = 0x004 then 0x08000140#32
          else if off = 0x008 then s.ctrlWord
          else if off = 0x00C then s.statusWord
          else if off = 0x014 then s.strategy.code.setWidth 32
          else if off = 0x018 then s.seqno
          else if off = 0x01C then s.prevSeqno
          else if off = 0x020 then s.gaplen
          else if off = 0x024 then s.sinkPkts
          else if off = 0x028 then BitVec.ofNat 32 s.sinkCap
          else if off = 0x02C then s.arg0
          else if off = 0x030 then s.arg1
          else if off = 0x034 then s.arg2
          else 0#32)) } ∧
    ∀ v : Word,
      (off = 0x008 → s.hostAccess ⟨off, .word, .write v⟩ =
        { s with doneIE := v.getLsbD 0, errIE := v.getLsbD 1, response := some .written }) ∧
      (off = 0x018 → s.hostAccess ⟨off, .word, .write v⟩ = { s with seqno := v, response := some .written }) ∧
      (off = 0x02C → s.hostAccess ⟨off, .word, .write v⟩ = { s with arg0 := v, response := some .written }) ∧
      (off = 0x030 → s.hostAccess ⟨off, .word, .write v⟩ = { s with arg1 := v, response := some .written }) ∧
      (off = 0x034 → s.hostAccess ⟨off, .word, .write v⟩ = { s with arg2 := v, response := some .written }) ∧
      (off = 0x000 ∨ off = 0x004 ∨ off = 0x01C ∨ off = 0x020 ∨ off = 0x024 ∨ off = 0x028 ∨ 0x038 ≤ off.toNat →
        s.hostAccess ⟨off, .word, .write v⟩ = { s with response := some .written })

/-- 10_state.md R30: where a read of STATUS shows each field, ERRCODE by the codes of 60_exceptions.md R201; every other
bit reads 0. -/
def Obligations.StatusWordFields : Prop :=
  ∀ s : State,
    s.statusWord.getLsbD 0 = s.busy ∧ s.statusWord.getLsbD 1 = s.done ∧ s.statusWord.getLsbD 2 = s.err ∧
    s.statusWord.getLsbD 3 = s.busyErr ∧ s.statusWord.getLsbD 4 = s.cfgErr ∧
    s.statusWord.extractLsb' 5 3 = 0#3 ∧
    (∀ (e : ErrCode) (c : BitVec 4),
      (e, c) ∈ [(.none, 0#4), (.illegalCmd, 1#4), (.seqOrder, 2#4), (.sinkFull, 3#4), (.range, 4#4), (.noTail, 5#4)] →
      s.errcode = e → s.statusWord.extractLsb' 8 4 = c) ∧
    s.statusWord.extractLsb' 12 4 = 0#4 ∧ s.statusWord.getLsbD 16 = decide (s.rsState = .tracking) ∧
    s.statusWord.extractLsb' 17 15 = 0#15

/-- 10_state.md R31: each bit of a STATUS write acts independently, BUSY or not, and nothing else changes (with `rst_n` = 1;
while it is 0 the flags are 0 already). -/
def Obligations.StatusWritesClearWhatTheyName : Prop :=
  ∀ (s : State) (v : Word), s.hostAccess ⟨0x00C, .word, .write v⟩ =
    { s with
      done := if v.getLsbD 1 then false else s.done
      err := if v.getLsbD 2 then false else s.err
      errcode := if v.getLsbD 2 then .none else s.errcode
      busyErr := if v.getLsbD 3 then false else s.busyErr
      cfgErr := if v.getLsbD 4 then false else s.cfgErr
      response := some .written }

/-- 10_state.md R33: a write of STRATEGY with `rst_n` = 1 and BUSY = 0, for every value, and what STRATEGY then reads; the
codes and their names are the rule's. -/
def Obligations.StrategyWritesAreLockedAndLegal : Prop :=
  ∀ (s : State) (v : Word), s.busy = false →
    (s.rsState = .tracking → s.hostAccess ⟨0x014, .word, .write v⟩ =
      { s with cfgErr := true, response := some .written }) ∧
    (s.rsState = .empty → 5 ≤ (v.extractLsb' 0 3).toNat → s.hostAccess ⟨0x014, .word, .write v⟩ =
      { s with cfgErr := true, response := some .written }) ∧
    (∀ (st : Strategy) (c : BitVec 3),
      (st, c) ∈ [(.silence, 0#3), (.repeatPrevious, 1#3), (.repeatNext, 2#3), (.repeatBoth, 3#3),
        (.spectralInterpolate, 4#3)] →
      (s.rsState = .empty → v.extractLsb' 0 3 = c →
        s.hostAccess ⟨0x014, .word, .write v⟩ = { s with strategy := st, response := some .written }) ∧
      (s.strategy = st →
        s.hostAccess ⟨0x014, .word, .read⟩ = { s with response := some (.read32 (c.setWidth 32)) }))

/-- 60_exceptions.md R205: a write of CMD with `rst_n` = 1 and BUSY = 0 latches the word, sets BUSY and clears DONE,
ERR and ERRCODE; BUSY_ERR and CFG_ERR keep their values. (That no line waits and no transaction is issued yet is the model's own
record of "not begun", log 9.) -/
def Obligations.CmdWriteStartsTheCommand : Prop :=
  ∀ (s : State) (v : Word), s.busy = false → s.hostAccess ⟨0x010, .word, .write v⟩ =
    { s with
      pending := some v
      busy := true
      done := false
      err := false
      errcode := .none
      work := none
      port := none
      response := some .written }

/-- 20_memory.md R53, R58 and R59, with `rst_n` = 1 and BUSY = 0: sample reads return what is stored, little-endian, and
change nothing; sample writes store the samples they name, and nothing else changes but the port's answer: no command starts. -/
def Obligations.SampleAccessesReadAndWriteSamples : Prop :=
  ∀ (s : State) (v : Word), s.busy = false →
    (∀ i < 2048, ∀ off : BitVec 13, off.toNat = 0x1000 + 2 * i →
      s.hostAccess ⟨off, .half, .read⟩ = { s with response := some (.read16 (s.sampleAt i)) } ∧
      s.hostAccess ⟨off, .half, .write v⟩ =
        { s.storeSamples i [v.extractLsb' 0 16] with response := some .written } ∧
      ∀ j, (s.hostAccess ⟨off, .half, .write v⟩).sampleAt j =
        if j = i then v.extractLsb' 0 16 else s.sampleAt j) ∧
    (∀ k < 1024, ∀ off : BitVec 13, off.toNat = 0x1000 + 4 * k →
      s.hostAccess ⟨off, .word, .read⟩ =
        { s with response := some (.read32 (s.sampleAt (2 * k + 1) ++ s.sampleAt (2 * k))) } ∧
      s.hostAccess ⟨off, .word, .write v⟩ =
        { s.storeSamples (2 * k) [v.extractLsb' 0 16, v.extractLsb' 16 16] with response := some .written } ∧
      ∀ j, (s.hostAccess ⟨off, .word, .write v⟩).sampleAt j =
        if j = 2 * k then v.extractLsb' 0 16
        else if j = 2 * k + 1 then v.extractLsb' 16 16
        else s.sampleAt j)

/-- 60_exceptions.md R211: bus errors, refused accesses and accesses to STRATEGY, ignored writes among them, never
change `irq`; nor does any read. -/
def Obligations.RefusalsNeverChangeIrq : Prop :=
  ∀ (s : State) (a : Access),
    (a.legal = false ∨ (s.busy = true ∧ a.allowedBusy = false) ∨ a.offset = 0x014 ∨ a.direction = .read) →
    (s.hostAccess a).irq = s.irq

/-- 10_state.md R47: the interrupt output is a level; 60_exceptions.md R208: the host's acknowledgement of a completion clears
DONE, ERR and ERRCODE and drops it. -/
def Obligations.IrqIsALevelThatAcknowledgementDrops : Prop :=
  (∀ s : State, s.irq = ((s.done && s.doneIE) || (s.err && s.errIE))) ∧ State.reset.irq = false ∧
  (∀ s : State,
    s.hostAccess ⟨0x00C, .word, .write 0x00000006#32⟩ =
      { s with done := false, err := false, errcode := .none, response := some .written } ∧
    (s.hostAccess ⟨0x00C, .word, .write 0x00000006#32⟩).irq = false)

/-! ### Reset and the whole machine -/

/-- 10_state.md R26 and 70_reset_and_hazards.md R230: what every register reads at power-on, while `rst_n` is 0 and when it
is released; SINK_CAP is the constant of the instance and reads what it read before (10_state.md R38, log 24). -/
def Obligations.ResetLeavesTheResetValues : Prop :=
  let resetValues := fun t : State =>
    t.readReg .id = 0x42534D01#32 ∧ t.readReg .param = 0x08000140#32 ∧
    t.readReg .ctrl = 0 ∧ t.readReg .status = 0 ∧
    t.readReg .cmd = 0 ∧ t.readReg .strategy = 0 ∧
    t.readReg .seqno = 0 ∧ t.readReg .prevSeqno = 0 ∧
    t.readReg .gaplen = 0 ∧ t.readReg .sinkPkts = 0 ∧
    t.readReg .arg0 = 0 ∧ t.readReg .arg1 = 0 ∧ t.readReg .arg2 = 0 ∧
    t.rsState = .empty ∧ t.busy = false ∧ t.pending = none ∧ t.irq = false
  (resetValues State.reset ∧ State.reset.rstAsserted = false ∧ State.reset.sinkCap = Config.sinkCapLessOne.val + 1) ∧
  ∀ s : State,
    (s.rstAsserted = false → ∀ kept : Bool,
      resetValues (s.assertReset kept) ∧ (s.assertReset kept).rstAsserted = true ∧
      (s.assertReset kept).sinkCap = s.sinkCap) ∧
    (s.rstAsserted = true → ∀ m : List Byte,
      resetValues (s.releaseReset m) ∧ (s.releaseReset m).rstAsserted = false ∧
      (s.releaseReset m).sinkCap = s.sinkCap)

/-- 70_reset_and_hazards.md R230 and R232: the fall of `rst_n` abandons the command in flight, with none of its remaining
transactions, and does not reach the sink; whether the sink kept the transaction it was receiving is the sink's
(log 8). While `rst_n` is 0 the engine does nothing, and a host access is answered as the reset values answer it and
changes no register and starts no command (what it does in the sample memory, which is unspecified after reset, is log
14's). The rise of `rst_n` lets go of the reset values and does not reach the sink either. -/
def Obligations.ResetAbandonsTheCommandAndHoldsTheBlock : Prop :=
  (∀ (s : State) (kept : Bool) (rest : List Event), s.rstAsserted = false → s.inputs = .assertReset kept :: rest →
    ∃ t, step s = .next t ∧ t.rstAsserted = true ∧ t.work = none ∧ t.port = none ∧ t.pending = none ∧ t.busy = false ∧
      t.irq = false ∧ t.sinkPkts = 0 ∧ t.inputs = rest ∧
      (kept = false ∨ s.port = none → t.sink = s.sink ∧ t.trace = s.trace) ∧
      (∀ x, kept = true → s.port = some x → t.sink = x.onSink s.sink ∧ t.trace = s.trace ++ [x])) ∧
  (∀ (s : State) (rest : List Event), s.Good → s.rstAsserted = true →
    (s.inputs = [] → step s = .next s) ∧
    (s.inputs = .engine :: rest → step s = .next { s with inputs := rest }) ∧
    (∀ a : Access, s.inputs = .host a :: rest → step s = .next
      { s with
        inputs := rest
        response := (s.hostAccess a).response
        sram := (s.hostAccess a).sram }) ∧
    (s.inputs = .poll :: rest → step s = .next { s with inputs := rest, response := some (.read32 0#32) }) ∧
    (∀ m : List Byte, s.inputs = .releaseReset m :: rest → step s = .next
      { s with
        rstAsserted := false
        inputs := rest
        sram := Memory.write 0x1000 (m.take 4096) []
        resets := s.resets + 1 }))

/-- The machine right after reset is a good state. -/
def Obligations.ResetIsGood : Prop := State.reset.Good

/-- Every step of the machine, whatever move it is, keeps a good state good: the memory canonical, BUSY exactly while a
command is latched, ERRCODE 0 exactly when ERR is 0, PREV_SEQNO and GAPLEN 0 in the Empty state, SINK_PKTS within
SINK_CAP_PKTS, lines that commit an arrival those of the latched ARRIVE, and every register at its reset value while
`rst_n` is 0. -/
def Obligations.EveryStepKeepsGood : Prop :=
  ∀ s t : State, s.Good → step s = .next t → t.Good

/-- From a good state the machine never stops: no fault, no refusal, whatever comes (60_exceptions.md R221). -/
def Obligations.GoodMachineNeverStops : Prop :=
  ∀ (s : State) (k : Nat), s.Good → ∃ t, core.run k s = .next t ∧ t.Good

/-- 44_receiver.md R187 and 10_state.md R33: STRATEGY keeps its value as long as the receiver stays in Tracking. -/
def Obligations.StrategyIsLockedDuringASession : Prop :=
  ∀ s t : State, step s = .next t → s.rsState = .tracking → t.rsState = .tracking → t.strategy = s.strategy

/-- 20_memory.md R69 and 60_exceptions.md R206: a step that leaves BUSY at 1 does not change what STATUS.TRACKING shows,
nor PREV_SEQNO or GAPLEN. -/
def Obligations.TrackingNeverChangesWhileBusy : Prop :=
  ∀ s t : State, s.Good → step s = .next t → t.busy = true →
    t.rsState = s.rsState ∧ t.prevSeqno = s.prevSeqno ∧ t.gaplen = s.gaplen

/-- 10_state.md R23: in a run of good states the receiver goes from Empty to Tracking only by a successful ARRIVE, delayed or
not, and from Tracking to Empty only by CLEAR or reset. -/
def Obligations.OnlyArriveStartsAndOnlyClearOrResetEndsTracking : Prop :=
  ∀ s t : State, s.Good → step s = .next t →
    (s.rsState = .empty → t.rsState = .tracking →
      s.busy = true ∧ s.pending = some (encode .arrive) ∧
      t.busy = false ∧ t.done = true ∧ t.err = false ∧ t.prevSeqno = s.seqno) ∧
    (s.rsState = .tracking → t.rsState = .empty →
      (s.busy = true ∧ s.pending = some (encode .clear) ∧ t.busy = false ∧ t.done = true ∧ t.err = false) ∨
      ∃ kept rest, s.inputs = .assertReset kept :: rest)

/-- 20_memory.md R66: on the sink port a sample is two bytes, little-endian, in index order; so an append carries 640
bytes and an amend 160. -/
def Obligations.SinkPortBytesAreLittleEndian : Prop :=
  ∀ (xs : List Sample) (t : Txn), t = .append xs ∨ t = .amend xs →
    t.bytes.length = 2 * xs.length ∧
    ∀ (k : Nat) (h : k < xs.length),
      t.bytes[2 * k]? = some (xs[k].extractLsb' 0 8) ∧ t.bytes[2 * k + 1]? = some (xs[k].extractLsb' 8 8)

/-- 20_memory.md R51: the block decodes exactly the 8 KiB window from BSM_BASE, a multiple of 0x2000. -/
def Obligations.BlockDecodesExactlyItsWindow : Prop :=
  ∀ (P : Params) (address : Nat),
    P.base % 0x2000 = 0 ∧
    (address < P.base ∨ P.base + 0x2000 ≤ address → windowOffset P address = none) ∧
    (∀ off < 0x2000, ∃ o, windowOffset P (P.base + off) = some o ∧ o.toNat = off)
end

