-- ==== Sys2Proof/Laws/State.lean ====
section
/-! SUPPORT. Each field after each named update of State, true by computation: later proofs unfold no record
update. -/

namespace Sys2Proof.Machine

/-! ### `underReset` -/

@[simp] theorem State.underReset_rstAsserted (s : State) :
    (s.underReset).rstAsserted = true := rfl
@[simp] theorem State.underReset_doneIE (s : State) :
    (s.underReset).doneIE = false := rfl
@[simp] theorem State.underReset_errIE (s : State) :
    (s.underReset).errIE = false := rfl
@[simp] theorem State.underReset_busy (s : State) :
    (s.underReset).busy = false := rfl
@[simp] theorem State.underReset_done (s : State) :
    (s.underReset).done = false := rfl
@[simp] theorem State.underReset_err (s : State) :
    (s.underReset).err = false := rfl
@[simp] theorem State.underReset_busyErr (s : State) :
    (s.underReset).busyErr = false := rfl
@[simp] theorem State.underReset_cfgErr (s : State) :
    (s.underReset).cfgErr = false := rfl
@[simp] theorem State.underReset_errcode (s : State) :
    (s.underReset).errcode = .none := rfl
@[simp] theorem State.underReset_rsState (s : State) :
    (s.underReset).rsState = .empty := rfl
@[simp] theorem State.underReset_strategy (s : State) :
    (s.underReset).strategy = .silence := rfl
@[simp] theorem State.underReset_seqno (s : State) :
    (s.underReset).seqno = 0 := rfl
@[simp] theorem State.underReset_prevSeqno (s : State) :
    (s.underReset).prevSeqno = 0 := rfl
@[simp] theorem State.underReset_gaplen (s : State) :
    (s.underReset).gaplen = 0 := rfl
@[simp] theorem State.underReset_sinkPkts (s : State) :
    (s.underReset).sinkPkts = 0 := rfl
@[simp] theorem State.underReset_sinkCapLessOne (s : State) :
    (s.underReset).sinkCapLessOne = s.sinkCapLessOne := rfl
@[simp] theorem State.underReset_arg0 (s : State) :
    (s.underReset).arg0 = 0 := rfl
@[simp] theorem State.underReset_arg1 (s : State) :
    (s.underReset).arg1 = 0 := rfl
@[simp] theorem State.underReset_arg2 (s : State) :
    (s.underReset).arg2 = 0 := rfl
@[simp] theorem State.underReset_pending (s : State) :
    (s.underReset).pending = none := rfl
@[simp] theorem State.underReset_sram (s : State) :
    (s.underReset).sram = s.sram := rfl
@[simp] theorem State.underReset_scratchS (s : State) :
    (s.underReset).scratchS = zeroFrame 320 := rfl
@[simp] theorem State.underReset_scratchW (s : State) :
    (s.underReset).scratchW = zeroFrame 160 := rfl
@[simp] theorem State.underReset_scratchR (s : State) :
    (s.underReset).scratchR = zeroFrame 160 := rfl
@[simp] theorem State.underReset_scratchCP (s : State) :
    (s.underReset).scratchCP = zeroFrame 320 := rfl
@[simp] theorem State.underReset_scratchCA (s : State) :
    (s.underReset).scratchCA = zeroFrame 320 := rfl
@[simp] theorem State.underReset_scratchAVG (s : State) :
    (s.underReset).scratchAVG = zeroFrame 320 := rfl
@[simp] theorem State.underReset_work (s : State) :
    (s.underReset).work = none := rfl
@[simp] theorem State.underReset_port (s : State) :
    (s.underReset).port = none := rfl
@[simp] theorem State.underReset_sink (s : State) :
    (s.underReset).sink = s.sink := rfl
@[simp] theorem State.underReset_sinkAccepts (s : State) :
    (s.underReset).sinkAccepts = s.sinkAccepts := rfl
@[simp] theorem State.underReset_trace (s : State) :
    (s.underReset).trace = s.trace := rfl
@[simp] theorem State.underReset_response (s : State) :
    (s.underReset).response = s.response := rfl
@[simp] theorem State.underReset_inputs (s : State) :
    (s.underReset).inputs = s.inputs := rfl
@[simp] theorem State.underReset_resets (s : State) :
    (s.underReset).resets = s.resets := rfl

/-! ### `complete` -/

@[simp] theorem State.complete_rstAsserted (s : State) :
    (s.complete).rstAsserted = s.rstAsserted := rfl
@[simp] theorem State.complete_doneIE (s : State) :
    (s.complete).doneIE = s.doneIE := rfl
@[simp] theorem State.complete_errIE (s : State) :
    (s.complete).errIE = s.errIE := rfl
@[simp] theorem State.complete_busy (s : State) :
    (s.complete).busy = false := rfl
@[simp] theorem State.complete_done (s : State) :
    (s.complete).done = true := rfl
@[simp] theorem State.complete_err (s : State) :
    (s.complete).err = s.err := rfl
@[simp] theorem State.complete_busyErr (s : State) :
    (s.complete).busyErr = s.busyErr := rfl
@[simp] theorem State.complete_cfgErr (s : State) :
    (s.complete).cfgErr = s.cfgErr := rfl
@[simp] theorem State.complete_errcode (s : State) :
    (s.complete).errcode = s.errcode := rfl
@[simp] theorem State.complete_rsState (s : State) :
    (s.complete).rsState = s.rsState := rfl
@[simp] theorem State.complete_strategy (s : State) :
    (s.complete).strategy = s.strategy := rfl
@[simp] theorem State.complete_seqno (s : State) :
    (s.complete).seqno = s.seqno := rfl
@[simp] theorem State.complete_prevSeqno (s : State) :
    (s.complete).prevSeqno = s.prevSeqno := rfl
@[simp] theorem State.complete_gaplen (s : State) :
    (s.complete).gaplen = s.gaplen := rfl
@[simp] theorem State.complete_sinkPkts (s : State) :
    (s.complete).sinkPkts = s.sinkPkts := rfl
@[simp] theorem State.complete_sinkCapLessOne (s : State) :
    (s.complete).sinkCapLessOne = s.sinkCapLessOne := rfl
@[simp] theorem State.complete_arg0 (s : State) :
    (s.complete).arg0 = s.arg0 := rfl
@[simp] theorem State.complete_arg1 (s : State) :
    (s.complete).arg1 = s.arg1 := rfl
@[simp] theorem State.complete_arg2 (s : State) :
    (s.complete).arg2 = s.arg2 := rfl
@[simp] theorem State.complete_pending (s : State) :
    (s.complete).pending = none := rfl
@[simp] theorem State.complete_sram (s : State) :
    (s.complete).sram = s.sram := rfl
@[simp] theorem State.complete_scratchS (s : State) :
    (s.complete).scratchS = s.scratchS := rfl
@[simp] theorem State.complete_scratchW (s : State) :
    (s.complete).scratchW = s.scratchW := rfl
@[simp] theorem State.complete_scratchR (s : State) :
    (s.complete).scratchR = s.scratchR := rfl
@[simp] theorem State.complete_scratchCP (s : State) :
    (s.complete).scratchCP = s.scratchCP := rfl
@[simp] theorem State.complete_scratchCA (s : State) :
    (s.complete).scratchCA = s.scratchCA := rfl
@[simp] theorem State.complete_scratchAVG (s : State) :
    (s.complete).scratchAVG = s.scratchAVG := rfl
@[simp] theorem State.complete_work (s : State) :
    (s.complete).work = none := rfl
@[simp] theorem State.complete_port (s : State) :
    (s.complete).port = none := rfl
@[simp] theorem State.complete_sink (s : State) :
    (s.complete).sink = s.sink := rfl
@[simp] theorem State.complete_sinkAccepts (s : State) :
    (s.complete).sinkAccepts = s.sinkAccepts := rfl
@[simp] theorem State.complete_trace (s : State) :
    (s.complete).trace = s.trace := rfl
@[simp] theorem State.complete_response (s : State) :
    (s.complete).response = s.response := rfl
@[simp] theorem State.complete_inputs (s : State) :
    (s.complete).inputs = s.inputs := rfl
@[simp] theorem State.complete_resets (s : State) :
    (s.complete).resets = s.resets := rfl

/-! ### `raiseError` -/

@[simp] theorem State.raiseError_rstAsserted (s : State) (c : ErrCode) :
    (s.raiseError c).rstAsserted = s.rstAsserted := rfl
@[simp] theorem State.raiseError_doneIE (s : State) (c : ErrCode) :
    (s.raiseError c).doneIE = s.doneIE := rfl
@[simp] theorem State.raiseError_errIE (s : State) (c : ErrCode) :
    (s.raiseError c).errIE = s.errIE := rfl
@[simp] theorem State.raiseError_busy (s : State) (c : ErrCode) :
    (s.raiseError c).busy = false := rfl
@[simp] theorem State.raiseError_done (s : State) (c : ErrCode) :
    (s.raiseError c).done = true := rfl
@[simp] theorem State.raiseError_err (s : State) (c : ErrCode) :
    (s.raiseError c).err = true := rfl
@[simp] theorem State.raiseError_busyErr (s : State) (c : ErrCode) :
    (s.raiseError c).busyErr = s.busyErr := rfl
@[simp] theorem State.raiseError_cfgErr (s : State) (c : ErrCode) :
    (s.raiseError c).cfgErr = s.cfgErr := rfl
@[simp] theorem State.raiseError_errcode (s : State) (c : ErrCode) :
    (s.raiseError c).errcode = c := rfl
@[simp] theorem State.raiseError_rsState (s : State) (c : ErrCode) :
    (s.raiseError c).rsState = s.rsState := rfl
@[simp] theorem State.raiseError_strategy (s : State) (c : ErrCode) :
    (s.raiseError c).strategy = s.strategy := rfl
@[simp] theorem State.raiseError_seqno (s : State) (c : ErrCode) :
    (s.raiseError c).seqno = s.seqno := rfl
@[simp] theorem State.raiseError_prevSeqno (s : State) (c : ErrCode) :
    (s.raiseError c).prevSeqno = s.prevSeqno := rfl
@[simp] theorem State.raiseError_gaplen (s : State) (c : ErrCode) :
    (s.raiseError c).gaplen = s.gaplen := rfl
@[simp] theorem State.raiseError_sinkPkts (s : State) (c : ErrCode) :
    (s.raiseError c).sinkPkts = s.sinkPkts := rfl
@[simp] theorem State.raiseError_sinkCapLessOne (s : State) (c : ErrCode) :
    (s.raiseError c).sinkCapLessOne = s.sinkCapLessOne := rfl
@[simp] theorem State.raiseError_arg0 (s : State) (c : ErrCode) :
    (s.raiseError c).arg0 = s.arg0 := rfl
@[simp] theorem State.raiseError_arg1 (s : State) (c : ErrCode) :
    (s.raiseError c).arg1 = s.arg1 := rfl
@[simp] theorem State.raiseError_arg2 (s : State) (c : ErrCode) :
    (s.raiseError c).arg2 = s.arg2 := rfl
@[simp] theorem State.raiseError_pending (s : State) (c : ErrCode) :
    (s.raiseError c).pending = none := rfl
@[simp] theorem State.raiseError_sram (s : State) (c : ErrCode) :
    (s.raiseError c).sram = s.sram := rfl
@[simp] theorem State.raiseError_scratchS (s : State) (c : ErrCode) :
    (s.raiseError c).scratchS = s.scratchS := rfl
@[simp] theorem State.raiseError_scratchW (s : State) (c : ErrCode) :
    (s.raiseError c).scratchW = s.scratchW := rfl
@[simp] theorem State.raiseError_scratchR (s : State) (c : ErrCode) :
    (s.raiseError c).scratchR = s.scratchR := rfl
@[simp] theorem State.raiseError_scratchCP (s : State) (c : ErrCode) :
    (s.raiseError c).scratchCP = s.scratchCP := rfl
@[simp] theorem State.raiseError_scratchCA (s : State) (c : ErrCode) :
    (s.raiseError c).scratchCA = s.scratchCA := rfl
@[simp] theorem State.raiseError_scratchAVG (s : State) (c : ErrCode) :
    (s.raiseError c).scratchAVG = s.scratchAVG := rfl
@[simp] theorem State.raiseError_work (s : State) (c : ErrCode) :
    (s.raiseError c).work = none := rfl
@[simp] theorem State.raiseError_port (s : State) (c : ErrCode) :
    (s.raiseError c).port = none := rfl
@[simp] theorem State.raiseError_sink (s : State) (c : ErrCode) :
    (s.raiseError c).sink = s.sink := rfl
@[simp] theorem State.raiseError_sinkAccepts (s : State) (c : ErrCode) :
    (s.raiseError c).sinkAccepts = s.sinkAccepts := rfl
@[simp] theorem State.raiseError_trace (s : State) (c : ErrCode) :
    (s.raiseError c).trace = s.trace := rfl
@[simp] theorem State.raiseError_response (s : State) (c : ErrCode) :
    (s.raiseError c).response = s.response := rfl
@[simp] theorem State.raiseError_inputs (s : State) (c : ErrCode) :
    (s.raiseError c).inputs = s.inputs := rfl
@[simp] theorem State.raiseError_resets (s : State) (c : ErrCode) :
    (s.raiseError c).resets = s.resets := rfl

/-! ### `startCommand` -/

@[simp] theorem State.startCommand_rstAsserted (s : State) (w : Word) :
    (s.startCommand w).rstAsserted = s.rstAsserted := rfl
@[simp] theorem State.startCommand_doneIE (s : State) (w : Word) :
    (s.startCommand w).doneIE = s.doneIE := rfl
@[simp] theorem State.startCommand_errIE (s : State) (w : Word) :
    (s.startCommand w).errIE = s.errIE := rfl
@[simp] theorem State.startCommand_busy (s : State) (w : Word) :
    (s.startCommand w).busy = true := rfl
@[simp] theorem State.startCommand_done (s : State) (w : Word) :
    (s.startCommand w).done = false := rfl
@[simp] theorem State.startCommand_err (s : State) (w : Word) :
    (s.startCommand w).err = false := rfl
@[simp] theorem State.startCommand_busyErr (s : State) (w : Word) :
    (s.startCommand w).busyErr = s.busyErr := rfl
@[simp] theorem State.startCommand_cfgErr (s : State) (w : Word) :
    (s.startCommand w).cfgErr = s.cfgErr := rfl
@[simp] theorem State.startCommand_errcode (s : State) (w : Word) :
    (s.startCommand w).errcode = .none := rfl
@[simp] theorem State.startCommand_rsState (s : State) (w : Word) :
    (s.startCommand w).rsState = s.rsState := rfl
@[simp] theorem State.startCommand_strategy (s : State) (w : Word) :
    (s.startCommand w).strategy = s.strategy := rfl
@[simp] theorem State.startCommand_seqno (s : State) (w : Word) :
    (s.startCommand w).seqno = s.seqno := rfl
@[simp] theorem State.startCommand_prevSeqno (s : State) (w : Word) :
    (s.startCommand w).prevSeqno = s.prevSeqno := rfl
@[simp] theorem State.startCommand_gaplen (s : State) (w : Word) :
    (s.startCommand w).gaplen = s.gaplen := rfl
@[simp] theorem State.startCommand_sinkPkts (s : State) (w : Word) :
    (s.startCommand w).sinkPkts = s.sinkPkts := rfl
@[simp] theorem State.startCommand_sinkCapLessOne (s : State) (w : Word) :
    (s.startCommand w).sinkCapLessOne = s.sinkCapLessOne := rfl
@[simp] theorem State.startCommand_arg0 (s : State) (w : Word) :
    (s.startCommand w).arg0 = s.arg0 := rfl
@[simp] theorem State.startCommand_arg1 (s : State) (w : Word) :
    (s.startCommand w).arg1 = s.arg1 := rfl
@[simp] theorem State.startCommand_arg2 (s : State) (w : Word) :
    (s.startCommand w).arg2 = s.arg2 := rfl
@[simp] theorem State.startCommand_pending (s : State) (w : Word) :
    (s.startCommand w).pending = some w := rfl
@[simp] theorem State.startCommand_sram (s : State) (w : Word) :
    (s.startCommand w).sram = s.sram := rfl
@[simp] theorem State.startCommand_scratchS (s : State) (w : Word) :
    (s.startCommand w).scratchS = s.scratchS := rfl
@[simp] theorem State.startCommand_scratchW (s : State) (w : Word) :
    (s.startCommand w).scratchW = s.scratchW := rfl
@[simp] theorem State.startCommand_scratchR (s : State) (w : Word) :
    (s.startCommand w).scratchR = s.scratchR := rfl
@[simp] theorem State.startCommand_scratchCP (s : State) (w : Word) :
    (s.startCommand w).scratchCP = s.scratchCP := rfl
@[simp] theorem State.startCommand_scratchCA (s : State) (w : Word) :
    (s.startCommand w).scratchCA = s.scratchCA := rfl
@[simp] theorem State.startCommand_scratchAVG (s : State) (w : Word) :
    (s.startCommand w).scratchAVG = s.scratchAVG := rfl
@[simp] theorem State.startCommand_work (s : State) (w : Word) :
    (s.startCommand w).work = none := rfl
@[simp] theorem State.startCommand_port (s : State) (w : Word) :
    (s.startCommand w).port = none := rfl
@[simp] theorem State.startCommand_sink (s : State) (w : Word) :
    (s.startCommand w).sink = s.sink := rfl
@[simp] theorem State.startCommand_sinkAccepts (s : State) (w : Word) :
    (s.startCommand w).sinkAccepts = s.sinkAccepts := rfl
@[simp] theorem State.startCommand_trace (s : State) (w : Word) :
    (s.startCommand w).trace = s.trace := rfl
@[simp] theorem State.startCommand_response (s : State) (w : Word) :
    (s.startCommand w).response = s.response := rfl
@[simp] theorem State.startCommand_inputs (s : State) (w : Word) :
    (s.startCommand w).inputs = s.inputs := rfl
@[simp] theorem State.startCommand_resets (s : State) (w : Word) :
    (s.startCommand w).resets = s.resets := rfl

/-! ### `acknowledge` -/

@[simp] theorem State.acknowledge_rstAsserted (s : State) :
    (s.acknowledge).rstAsserted = s.rstAsserted := rfl
@[simp] theorem State.acknowledge_doneIE (s : State) :
    (s.acknowledge).doneIE = s.doneIE := rfl
@[simp] theorem State.acknowledge_errIE (s : State) :
    (s.acknowledge).errIE = s.errIE := rfl
@[simp] theorem State.acknowledge_busy (s : State) :
    (s.acknowledge).busy = s.busy := rfl
@[simp] theorem State.acknowledge_done (s : State) :
    (s.acknowledge).done = false := rfl
@[simp] theorem State.acknowledge_err (s : State) :
    (s.acknowledge).err = false := rfl
@[simp] theorem State.acknowledge_busyErr (s : State) :
    (s.acknowledge).busyErr = s.busyErr := rfl
@[simp] theorem State.acknowledge_cfgErr (s : State) :
    (s.acknowledge).cfgErr = s.cfgErr := rfl
@[simp] theorem State.acknowledge_errcode (s : State) :
    (s.acknowledge).errcode = .none := rfl
@[simp] theorem State.acknowledge_rsState (s : State) :
    (s.acknowledge).rsState = s.rsState := rfl
@[simp] theorem State.acknowledge_strategy (s : State) :
    (s.acknowledge).strategy = s.strategy := rfl
@[simp] theorem State.acknowledge_seqno (s : State) :
    (s.acknowledge).seqno = s.seqno := rfl
@[simp] theorem State.acknowledge_prevSeqno (s : State) :
    (s.acknowledge).prevSeqno = s.prevSeqno := rfl
@[simp] theorem State.acknowledge_gaplen (s : State) :
    (s.acknowledge).gaplen = s.gaplen := rfl
@[simp] theorem State.acknowledge_sinkPkts (s : State) :
    (s.acknowledge).sinkPkts = s.sinkPkts := rfl
@[simp] theorem State.acknowledge_sinkCapLessOne (s : State) :
    (s.acknowledge).sinkCapLessOne = s.sinkCapLessOne := rfl
@[simp] theorem State.acknowledge_arg0 (s : State) :
    (s.acknowledge).arg0 = s.arg0 := rfl
@[simp] theorem State.acknowledge_arg1 (s : State) :
    (s.acknowledge).arg1 = s.arg1 := rfl
@[simp] theorem State.acknowledge_arg2 (s : State) :
    (s.acknowledge).arg2 = s.arg2 := rfl
@[simp] theorem State.acknowledge_pending (s : State) :
    (s.acknowledge).pending = s.pending := rfl
@[simp] theorem State.acknowledge_sram (s : State) :
    (s.acknowledge).sram = s.sram := rfl
@[simp] theorem State.acknowledge_scratchS (s : State) :
    (s.acknowledge).scratchS = s.scratchS := rfl
@[simp] theorem State.acknowledge_scratchW (s : State) :
    (s.acknowledge).scratchW = s.scratchW := rfl
@[simp] theorem State.acknowledge_scratchR (s : State) :
    (s.acknowledge).scratchR = s.scratchR := rfl
@[simp] theorem State.acknowledge_scratchCP (s : State) :
    (s.acknowledge).scratchCP = s.scratchCP := rfl
@[simp] theorem State.acknowledge_scratchCA (s : State) :
    (s.acknowledge).scratchCA = s.scratchCA := rfl
@[simp] theorem State.acknowledge_scratchAVG (s : State) :
    (s.acknowledge).scratchAVG = s.scratchAVG := rfl
@[simp] theorem State.acknowledge_work (s : State) :
    (s.acknowledge).work = s.work := rfl
@[simp] theorem State.acknowledge_port (s : State) :
    (s.acknowledge).port = s.port := rfl
@[simp] theorem State.acknowledge_sink (s : State) :
    (s.acknowledge).sink = s.sink := rfl
@[simp] theorem State.acknowledge_sinkAccepts (s : State) :
    (s.acknowledge).sinkAccepts = s.sinkAccepts := rfl
@[simp] theorem State.acknowledge_trace (s : State) :
    (s.acknowledge).trace = s.trace := rfl
@[simp] theorem State.acknowledge_response (s : State) :
    (s.acknowledge).response = s.response := rfl
@[simp] theorem State.acknowledge_inputs (s : State) :
    (s.acknowledge).inputs = s.inputs := rfl
@[simp] theorem State.acknowledge_resets (s : State) :
    (s.acknowledge).resets = s.resets := rfl

/-! ### `storeBytes` -/

@[simp] theorem State.storeBytes_rstAsserted (s : State) (a : Nat) (bs : List Byte) :
    (s.storeBytes a bs).rstAsserted = s.rstAsserted := rfl
@[simp] theorem State.storeBytes_doneIE (s : State) (a : Nat) (bs : List Byte) :
    (s.storeBytes a bs).doneIE = s.doneIE := rfl
@[simp] theorem State.storeBytes_errIE (s : State) (a : Nat) (bs : List Byte) :
    (s.storeBytes a bs).errIE = s.errIE := rfl
@[simp] theorem State.storeBytes_busy (s : State) (a : Nat) (bs : List Byte) :
    (s.storeBytes a bs).busy = s.busy := rfl
@[simp] theorem State.storeBytes_done (s : State) (a : Nat) (bs : List Byte) :
    (s.storeBytes a bs).done = s.done := rfl
@[simp] theorem State.storeBytes_err (s : State) (a : Nat) (bs : List Byte) :
    (s.storeBytes a bs).err = s.err := rfl
@[simp] theorem State.storeBytes_busyErr (s : State) (a : Nat) (bs : List Byte) :
    (s.storeBytes a bs).busyErr = s.busyErr := rfl
@[simp] theorem State.storeBytes_cfgErr (s : State) (a : Nat) (bs : List Byte) :
    (s.storeBytes a bs).cfgErr = s.cfgErr := rfl
@[simp] theorem State.storeBytes_errcode (s : State) (a : Nat) (bs : List Byte) :
    (s.storeBytes a bs).errcode = s.errcode := rfl
@[simp] theorem State.storeBytes_rsState (s : State) (a : Nat) (bs : List Byte) :
    (s.storeBytes a bs).rsState = s.rsState := rfl
@[simp] theorem State.storeBytes_strategy (s : State) (a : Nat) (bs : List Byte) :
    (s.storeBytes a bs).strategy = s.strategy := rfl
@[simp] theorem State.storeBytes_seqno (s : State) (a : Nat) (bs : List Byte) :
    (s.storeBytes a bs).seqno = s.seqno := rfl
@[simp] theorem State.storeBytes_prevSeqno (s : State) (a : Nat) (bs : List Byte) :
    (s.storeBytes a bs).prevSeqno = s.prevSeqno := rfl
@[simp] theorem State.storeBytes_gaplen (s : State) (a : Nat) (bs : List Byte) :
    (s.storeBytes a bs).gaplen = s.gaplen := rfl
@[simp] theorem State.storeBytes_sinkPkts (s : State) (a : Nat) (bs : List Byte) :
    (s.storeBytes a bs).sinkPkts = s.sinkPkts := rfl
@[simp] theorem State.storeBytes_sinkCapLessOne (s : State) (a : Nat) (bs : List Byte) :
    (s.storeBytes a bs).sinkCapLessOne = s.sinkCapLessOne := rfl
@[simp] theorem State.storeBytes_arg0 (s : State) (a : Nat) (bs : List Byte) :
    (s.storeBytes a bs).arg0 = s.arg0 := rfl
@[simp] theorem State.storeBytes_arg1 (s : State) (a : Nat) (bs : List Byte) :
    (s.storeBytes a bs).arg1 = s.arg1 := rfl
@[simp] theorem State.storeBytes_arg2 (s : State) (a : Nat) (bs : List Byte) :
    (s.storeBytes a bs).arg2 = s.arg2 := rfl
@[simp] theorem State.storeBytes_pending (s : State) (a : Nat) (bs : List Byte) :
    (s.storeBytes a bs).pending = s.pending := rfl
@[simp] theorem State.storeBytes_sram (s : State) (a : Nat) (bs : List Byte) :
    (s.storeBytes a bs).sram = s.sram.write a bs := rfl
@[simp] theorem State.storeBytes_scratchS (s : State) (a : Nat) (bs : List Byte) :
    (s.storeBytes a bs).scratchS = s.scratchS := rfl
@[simp] theorem State.storeBytes_scratchW (s : State) (a : Nat) (bs : List Byte) :
    (s.storeBytes a bs).scratchW = s.scratchW := rfl
@[simp] theorem State.storeBytes_scratchR (s : State) (a : Nat) (bs : List Byte) :
    (s.storeBytes a bs).scratchR = s.scratchR := rfl
@[simp] theorem State.storeBytes_scratchCP (s : State) (a : Nat) (bs : List Byte) :
    (s.storeBytes a bs).scratchCP = s.scratchCP := rfl
@[simp] theorem State.storeBytes_scratchCA (s : State) (a : Nat) (bs : List Byte) :
    (s.storeBytes a bs).scratchCA = s.scratchCA := rfl
@[simp] theorem State.storeBytes_scratchAVG (s : State) (a : Nat) (bs : List Byte) :
    (s.storeBytes a bs).scratchAVG = s.scratchAVG := rfl
@[simp] theorem State.storeBytes_work (s : State) (a : Nat) (bs : List Byte) :
    (s.storeBytes a bs).work = s.work := rfl
@[simp] theorem State.storeBytes_port (s : State) (a : Nat) (bs : List Byte) :
    (s.storeBytes a bs).port = s.port := rfl
@[simp] theorem State.storeBytes_sink (s : State) (a : Nat) (bs : List Byte) :
    (s.storeBytes a bs).sink = s.sink := rfl
@[simp] theorem State.storeBytes_sinkAccepts (s : State) (a : Nat) (bs : List Byte) :
    (s.storeBytes a bs).sinkAccepts = s.sinkAccepts := rfl
@[simp] theorem State.storeBytes_trace (s : State) (a : Nat) (bs : List Byte) :
    (s.storeBytes a bs).trace = s.trace := rfl
@[simp] theorem State.storeBytes_response (s : State) (a : Nat) (bs : List Byte) :
    (s.storeBytes a bs).response = s.response := rfl
@[simp] theorem State.storeBytes_inputs (s : State) (a : Nat) (bs : List Byte) :
    (s.storeBytes a bs).inputs = s.inputs := rfl
@[simp] theorem State.storeBytes_resets (s : State) (a : Nat) (bs : List Byte) :
    (s.storeBytes a bs).resets = s.resets := rfl

/-! ### `storeSamples` -/

@[simp] theorem State.storeSamples_rstAsserted (s : State) (i : Nat) (xs : List Sample) :
    (s.storeSamples i xs).rstAsserted = s.rstAsserted := rfl
@[simp] theorem State.storeSamples_doneIE (s : State) (i : Nat) (xs : List Sample) :
    (s.storeSamples i xs).doneIE = s.doneIE := rfl
@[simp] theorem State.storeSamples_errIE (s : State) (i : Nat) (xs : List Sample) :
    (s.storeSamples i xs).errIE = s.errIE := rfl
@[simp] theorem State.storeSamples_busy (s : State) (i : Nat) (xs : List Sample) :
    (s.storeSamples i xs).busy = s.busy := rfl
@[simp] theorem State.storeSamples_done (s : State) (i : Nat) (xs : List Sample) :
    (s.storeSamples i xs).done = s.done := rfl
@[simp] theorem State.storeSamples_err (s : State) (i : Nat) (xs : List Sample) :
    (s.storeSamples i xs).err = s.err := rfl
@[simp] theorem State.storeSamples_busyErr (s : State) (i : Nat) (xs : List Sample) :
    (s.storeSamples i xs).busyErr = s.busyErr := rfl
@[simp] theorem State.storeSamples_cfgErr (s : State) (i : Nat) (xs : List Sample) :
    (s.storeSamples i xs).cfgErr = s.cfgErr := rfl
@[simp] theorem State.storeSamples_errcode (s : State) (i : Nat) (xs : List Sample) :
    (s.storeSamples i xs).errcode = s.errcode := rfl
@[simp] theorem State.storeSamples_rsState (s : State) (i : Nat) (xs : List Sample) :
    (s.storeSamples i xs).rsState = s.rsState := rfl
@[simp] theorem State.storeSamples_strategy (s : State) (i : Nat) (xs : List Sample) :
    (s.storeSamples i xs).strategy = s.strategy := rfl
@[simp] theorem State.storeSamples_seqno (s : State) (i : Nat) (xs : List Sample) :
    (s.storeSamples i xs).seqno = s.seqno := rfl
@[simp] theorem State.storeSamples_prevSeqno (s : State) (i : Nat) (xs : List Sample) :
    (s.storeSamples i xs).prevSeqno = s.prevSeqno := rfl
@[simp] theorem State.storeSamples_gaplen (s : State) (i : Nat) (xs : List Sample) :
    (s.storeSamples i xs).gaplen = s.gaplen := rfl
@[simp] theorem State.storeSamples_sinkPkts (s : State) (i : Nat) (xs : List Sample) :
    (s.storeSamples i xs).sinkPkts = s.sinkPkts := rfl
@[simp] theorem State.storeSamples_sinkCapLessOne (s : State) (i : Nat) (xs : List Sample) :
    (s.storeSamples i xs).sinkCapLessOne = s.sinkCapLessOne := rfl
@[simp] theorem State.storeSamples_arg0 (s : State) (i : Nat) (xs : List Sample) :
    (s.storeSamples i xs).arg0 = s.arg0 := rfl
@[simp] theorem State.storeSamples_arg1 (s : State) (i : Nat) (xs : List Sample) :
    (s.storeSamples i xs).arg1 = s.arg1 := rfl
@[simp] theorem State.storeSamples_arg2 (s : State) (i : Nat) (xs : List Sample) :
    (s.storeSamples i xs).arg2 = s.arg2 := rfl
@[simp] theorem State.storeSamples_pending (s : State) (i : Nat) (xs : List Sample) :
    (s.storeSamples i xs).pending = s.pending := rfl
@[simp] theorem State.storeSamples_sram (s : State) (i : Nat) (xs : List Sample) :
    (s.storeSamples i xs).sram = s.sram.write (sampleOffset i) (xs.flatMap sampleBytes) := rfl
@[simp] theorem State.storeSamples_scratchS (s : State) (i : Nat) (xs : List Sample) :
    (s.storeSamples i xs).scratchS = s.scratchS := rfl
@[simp] theorem State.storeSamples_scratchW (s : State) (i : Nat) (xs : List Sample) :
    (s.storeSamples i xs).scratchW = s.scratchW := rfl
@[simp] theorem State.storeSamples_scratchR (s : State) (i : Nat) (xs : List Sample) :
    (s.storeSamples i xs).scratchR = s.scratchR := rfl
@[simp] theorem State.storeSamples_scratchCP (s : State) (i : Nat) (xs : List Sample) :
    (s.storeSamples i xs).scratchCP = s.scratchCP := rfl
@[simp] theorem State.storeSamples_scratchCA (s : State) (i : Nat) (xs : List Sample) :
    (s.storeSamples i xs).scratchCA = s.scratchCA := rfl
@[simp] theorem State.storeSamples_scratchAVG (s : State) (i : Nat) (xs : List Sample) :
    (s.storeSamples i xs).scratchAVG = s.scratchAVG := rfl
@[simp] theorem State.storeSamples_work (s : State) (i : Nat) (xs : List Sample) :
    (s.storeSamples i xs).work = s.work := rfl
@[simp] theorem State.storeSamples_port (s : State) (i : Nat) (xs : List Sample) :
    (s.storeSamples i xs).port = s.port := rfl
@[simp] theorem State.storeSamples_sink (s : State) (i : Nat) (xs : List Sample) :
    (s.storeSamples i xs).sink = s.sink := rfl
@[simp] theorem State.storeSamples_sinkAccepts (s : State) (i : Nat) (xs : List Sample) :
    (s.storeSamples i xs).sinkAccepts = s.sinkAccepts := rfl
@[simp] theorem State.storeSamples_trace (s : State) (i : Nat) (xs : List Sample) :
    (s.storeSamples i xs).trace = s.trace := rfl
@[simp] theorem State.storeSamples_response (s : State) (i : Nat) (xs : List Sample) :
    (s.storeSamples i xs).response = s.response := rfl
@[simp] theorem State.storeSamples_inputs (s : State) (i : Nat) (xs : List Sample) :
    (s.storeSamples i xs).inputs = s.inputs := rfl
@[simp] theorem State.storeSamples_resets (s : State) (i : Nat) (xs : List Sample) :
    (s.storeSamples i xs).resets = s.resets := rfl

/-! ### `sinkTakes` -/

@[simp] theorem State.sinkTakes_rstAsserted (s : State) (t : Txn) :
    (s.sinkTakes t).rstAsserted = s.rstAsserted := rfl
@[simp] theorem State.sinkTakes_doneIE (s : State) (t : Txn) :
    (s.sinkTakes t).doneIE = s.doneIE := rfl
@[simp] theorem State.sinkTakes_errIE (s : State) (t : Txn) :
    (s.sinkTakes t).errIE = s.errIE := rfl
@[simp] theorem State.sinkTakes_busy (s : State) (t : Txn) :
    (s.sinkTakes t).busy = s.busy := rfl
@[simp] theorem State.sinkTakes_done (s : State) (t : Txn) :
    (s.sinkTakes t).done = s.done := rfl
@[simp] theorem State.sinkTakes_err (s : State) (t : Txn) :
    (s.sinkTakes t).err = s.err := rfl
@[simp] theorem State.sinkTakes_busyErr (s : State) (t : Txn) :
    (s.sinkTakes t).busyErr = s.busyErr := rfl
@[simp] theorem State.sinkTakes_cfgErr (s : State) (t : Txn) :
    (s.sinkTakes t).cfgErr = s.cfgErr := rfl
@[simp] theorem State.sinkTakes_errcode (s : State) (t : Txn) :
    (s.sinkTakes t).errcode = s.errcode := rfl
@[simp] theorem State.sinkTakes_rsState (s : State) (t : Txn) :
    (s.sinkTakes t).rsState = s.rsState := rfl
@[simp] theorem State.sinkTakes_strategy (s : State) (t : Txn) :
    (s.sinkTakes t).strategy = s.strategy := rfl
@[simp] theorem State.sinkTakes_seqno (s : State) (t : Txn) :
    (s.sinkTakes t).seqno = s.seqno := rfl
@[simp] theorem State.sinkTakes_prevSeqno (s : State) (t : Txn) :
    (s.sinkTakes t).prevSeqno = s.prevSeqno := rfl
@[simp] theorem State.sinkTakes_gaplen (s : State) (t : Txn) :
    (s.sinkTakes t).gaplen = s.gaplen := rfl
@[simp] theorem State.sinkTakes_sinkPkts (s : State) (t : Txn) :
    (s.sinkTakes t).sinkPkts = s.sinkPkts := rfl
@[simp] theorem State.sinkTakes_sinkCapLessOne (s : State) (t : Txn) :
    (s.sinkTakes t).sinkCapLessOne = s.sinkCapLessOne := rfl
@[simp] theorem State.sinkTakes_arg0 (s : State) (t : Txn) :
    (s.sinkTakes t).arg0 = s.arg0 := rfl
@[simp] theorem State.sinkTakes_arg1 (s : State) (t : Txn) :
    (s.sinkTakes t).arg1 = s.arg1 := rfl
@[simp] theorem State.sinkTakes_arg2 (s : State) (t : Txn) :
    (s.sinkTakes t).arg2 = s.arg2 := rfl
@[simp] theorem State.sinkTakes_pending (s : State) (t : Txn) :
    (s.sinkTakes t).pending = s.pending := rfl
@[simp] theorem State.sinkTakes_sram (s : State) (t : Txn) :
    (s.sinkTakes t).sram = s.sram := rfl
@[simp] theorem State.sinkTakes_scratchS (s : State) (t : Txn) :
    (s.sinkTakes t).scratchS = s.scratchS := rfl
@[simp] theorem State.sinkTakes_scratchW (s : State) (t : Txn) :
    (s.sinkTakes t).scratchW = s.scratchW := rfl
@[simp] theorem State.sinkTakes_scratchR (s : State) (t : Txn) :
    (s.sinkTakes t).scratchR = s.scratchR := rfl
@[simp] theorem State.sinkTakes_scratchCP (s : State) (t : Txn) :
    (s.sinkTakes t).scratchCP = s.scratchCP := rfl
@[simp] theorem State.sinkTakes_scratchCA (s : State) (t : Txn) :
    (s.sinkTakes t).scratchCA = s.scratchCA := rfl
@[simp] theorem State.sinkTakes_scratchAVG (s : State) (t : Txn) :
    (s.sinkTakes t).scratchAVG = s.scratchAVG := rfl
@[simp] theorem State.sinkTakes_work (s : State) (t : Txn) :
    (s.sinkTakes t).work = s.work := rfl
@[simp] theorem State.sinkTakes_port (s : State) (t : Txn) :
    (s.sinkTakes t).port = s.port := rfl
@[simp] theorem State.sinkTakes_sink (s : State) (t : Txn) :
    (s.sinkTakes t).sink = t.onSink s.sink := rfl
@[simp] theorem State.sinkTakes_sinkAccepts (s : State) (t : Txn) :
    (s.sinkTakes t).sinkAccepts = s.sinkAccepts := rfl
@[simp] theorem State.sinkTakes_trace (s : State) (t : Txn) :
    (s.sinkTakes t).trace = s.trace ++ [t] := rfl
@[simp] theorem State.sinkTakes_response (s : State) (t : Txn) :
    (s.sinkTakes t).response = s.response := rfl
@[simp] theorem State.sinkTakes_inputs (s : State) (t : Txn) :
    (s.sinkTakes t).inputs = s.inputs := rfl
@[simp] theorem State.sinkTakes_resets (s : State) (t : Txn) :
    (s.sinkTakes t).resets = s.resets := rfl

/-! ### `wait` -/

@[simp] theorem State.wait_rstAsserted (s : State) (t : Txn) (l : List Action) :
    (s.wait t l).rstAsserted = s.rstAsserted := rfl
@[simp] theorem State.wait_doneIE (s : State) (t : Txn) (l : List Action) :
    (s.wait t l).doneIE = s.doneIE := rfl
@[simp] theorem State.wait_errIE (s : State) (t : Txn) (l : List Action) :
    (s.wait t l).errIE = s.errIE := rfl
@[simp] theorem State.wait_busy (s : State) (t : Txn) (l : List Action) :
    (s.wait t l).busy = s.busy := rfl
@[simp] theorem State.wait_done (s : State) (t : Txn) (l : List Action) :
    (s.wait t l).done = s.done := rfl
@[simp] theorem State.wait_err (s : State) (t : Txn) (l : List Action) :
    (s.wait t l).err = s.err := rfl
@[simp] theorem State.wait_busyErr (s : State) (t : Txn) (l : List Action) :
    (s.wait t l).busyErr = s.busyErr := rfl
@[simp] theorem State.wait_cfgErr (s : State) (t : Txn) (l : List Action) :
    (s.wait t l).cfgErr = s.cfgErr := rfl
@[simp] theorem State.wait_errcode (s : State) (t : Txn) (l : List Action) :
    (s.wait t l).errcode = s.errcode := rfl
@[simp] theorem State.wait_rsState (s : State) (t : Txn) (l : List Action) :
    (s.wait t l).rsState = s.rsState := rfl
@[simp] theorem State.wait_strategy (s : State) (t : Txn) (l : List Action) :
    (s.wait t l).strategy = s.strategy := rfl
@[simp] theorem State.wait_seqno (s : State) (t : Txn) (l : List Action) :
    (s.wait t l).seqno = s.seqno := rfl
@[simp] theorem State.wait_prevSeqno (s : State) (t : Txn) (l : List Action) :
    (s.wait t l).prevSeqno = s.prevSeqno := rfl
@[simp] theorem State.wait_gaplen (s : State) (t : Txn) (l : List Action) :
    (s.wait t l).gaplen = s.gaplen := rfl
@[simp] theorem State.wait_sinkPkts (s : State) (t : Txn) (l : List Action) :
    (s.wait t l).sinkPkts = s.sinkPkts := rfl
@[simp] theorem State.wait_sinkCapLessOne (s : State) (t : Txn) (l : List Action) :
    (s.wait t l).sinkCapLessOne = s.sinkCapLessOne := rfl
@[simp] theorem State.wait_arg0 (s : State) (t : Txn) (l : List Action) :
    (s.wait t l).arg0 = s.arg0 := rfl
@[simp] theorem State.wait_arg1 (s : State) (t : Txn) (l : List Action) :
    (s.wait t l).arg1 = s.arg1 := rfl
@[simp] theorem State.wait_arg2 (s : State) (t : Txn) (l : List Action) :
    (s.wait t l).arg2 = s.arg2 := rfl
@[simp] theorem State.wait_pending (s : State) (t : Txn) (l : List Action) :
    (s.wait t l).pending = s.pending := rfl
@[simp] theorem State.wait_sram (s : State) (t : Txn) (l : List Action) :
    (s.wait t l).sram = s.sram := rfl
@[simp] theorem State.wait_scratchS (s : State) (t : Txn) (l : List Action) :
    (s.wait t l).scratchS = s.scratchS := rfl
@[simp] theorem State.wait_scratchW (s : State) (t : Txn) (l : List Action) :
    (s.wait t l).scratchW = s.scratchW := rfl
@[simp] theorem State.wait_scratchR (s : State) (t : Txn) (l : List Action) :
    (s.wait t l).scratchR = s.scratchR := rfl
@[simp] theorem State.wait_scratchCP (s : State) (t : Txn) (l : List Action) :
    (s.wait t l).scratchCP = s.scratchCP := rfl
@[simp] theorem State.wait_scratchCA (s : State) (t : Txn) (l : List Action) :
    (s.wait t l).scratchCA = s.scratchCA := rfl
@[simp] theorem State.wait_scratchAVG (s : State) (t : Txn) (l : List Action) :
    (s.wait t l).scratchAVG = s.scratchAVG := rfl
@[simp] theorem State.wait_work (s : State) (t : Txn) (l : List Action) :
    (s.wait t l).work = some l := rfl
@[simp] theorem State.wait_port (s : State) (t : Txn) (l : List Action) :
    (s.wait t l).port = some t := rfl
@[simp] theorem State.wait_sink (s : State) (t : Txn) (l : List Action) :
    (s.wait t l).sink = s.sink := rfl
@[simp] theorem State.wait_sinkAccepts (s : State) (t : Txn) (l : List Action) :
    (s.wait t l).sinkAccepts = s.sinkAccepts := rfl
@[simp] theorem State.wait_trace (s : State) (t : Txn) (l : List Action) :
    (s.wait t l).trace = s.trace := rfl
@[simp] theorem State.wait_response (s : State) (t : Txn) (l : List Action) :
    (s.wait t l).response = s.response := rfl
@[simp] theorem State.wait_inputs (s : State) (t : Txn) (l : List Action) :
    (s.wait t l).inputs = s.inputs := rfl
@[simp] theorem State.wait_resets (s : State) (t : Txn) (l : List Action) :
    (s.wait t l).resets = s.resets := rfl

/-! ### `lowpass` -/

@[simp] theorem State.lowpass_rstAsserted (s : State) (P : Params) (w : Vector Sample 160) :
    (s.lowpass P w).rstAsserted = s.rstAsserted := rfl
@[simp] theorem State.lowpass_doneIE (s : State) (P : Params) (w : Vector Sample 160) :
    (s.lowpass P w).doneIE = s.doneIE := rfl
@[simp] theorem State.lowpass_errIE (s : State) (P : Params) (w : Vector Sample 160) :
    (s.lowpass P w).errIE = s.errIE := rfl
@[simp] theorem State.lowpass_busy (s : State) (P : Params) (w : Vector Sample 160) :
    (s.lowpass P w).busy = s.busy := rfl
@[simp] theorem State.lowpass_done (s : State) (P : Params) (w : Vector Sample 160) :
    (s.lowpass P w).done = s.done := rfl
@[simp] theorem State.lowpass_err (s : State) (P : Params) (w : Vector Sample 160) :
    (s.lowpass P w).err = s.err := rfl
@[simp] theorem State.lowpass_busyErr (s : State) (P : Params) (w : Vector Sample 160) :
    (s.lowpass P w).busyErr = s.busyErr := rfl
@[simp] theorem State.lowpass_cfgErr (s : State) (P : Params) (w : Vector Sample 160) :
    (s.lowpass P w).cfgErr = s.cfgErr := rfl
@[simp] theorem State.lowpass_errcode (s : State) (P : Params) (w : Vector Sample 160) :
    (s.lowpass P w).errcode = s.errcode := rfl
@[simp] theorem State.lowpass_rsState (s : State) (P : Params) (w : Vector Sample 160) :
    (s.lowpass P w).rsState = s.rsState := rfl
@[simp] theorem State.lowpass_strategy (s : State) (P : Params) (w : Vector Sample 160) :
    (s.lowpass P w).strategy = s.strategy := rfl
@[simp] theorem State.lowpass_seqno (s : State) (P : Params) (w : Vector Sample 160) :
    (s.lowpass P w).seqno = s.seqno := rfl
@[simp] theorem State.lowpass_prevSeqno (s : State) (P : Params) (w : Vector Sample 160) :
    (s.lowpass P w).prevSeqno = s.prevSeqno := rfl
@[simp] theorem State.lowpass_gaplen (s : State) (P : Params) (w : Vector Sample 160) :
    (s.lowpass P w).gaplen = s.gaplen := rfl
@[simp] theorem State.lowpass_sinkPkts (s : State) (P : Params) (w : Vector Sample 160) :
    (s.lowpass P w).sinkPkts = s.sinkPkts := rfl
@[simp] theorem State.lowpass_sinkCapLessOne (s : State) (P : Params) (w : Vector Sample 160) :
    (s.lowpass P w).sinkCapLessOne = s.sinkCapLessOne := rfl
@[simp] theorem State.lowpass_arg0 (s : State) (P : Params) (w : Vector Sample 160) :
    (s.lowpass P w).arg0 = s.arg0 := rfl
@[simp] theorem State.lowpass_arg1 (s : State) (P : Params) (w : Vector Sample 160) :
    (s.lowpass P w).arg1 = s.arg1 := rfl
@[simp] theorem State.lowpass_arg2 (s : State) (P : Params) (w : Vector Sample 160) :
    (s.lowpass P w).arg2 = s.arg2 := rfl
@[simp] theorem State.lowpass_pending (s : State) (P : Params) (w : Vector Sample 160) :
    (s.lowpass P w).pending = s.pending := rfl
@[simp] theorem State.lowpass_sram (s : State) (P : Params) (w : Vector Sample 160) :
    (s.lowpass P w).sram = s.sram := rfl
@[simp] theorem State.lowpass_scratchS (s : State) (P : Params) (w : Vector Sample 160) :
    (s.lowpass P w).scratchS = s.scratchS := rfl
@[simp] theorem State.lowpass_scratchW (s : State) (P : Params) (w : Vector Sample 160) :
    (s.lowpass P w).scratchW = w := rfl
@[simp] theorem State.lowpass_scratchR (s : State) (P : Params) (w : Vector Sample 160) :
    (s.lowpass P w).scratchR = lp P w := rfl
@[simp] theorem State.lowpass_scratchCP (s : State) (P : Params) (w : Vector Sample 160) :
    (s.lowpass P w).scratchCP = s.scratchCP := rfl
@[simp] theorem State.lowpass_scratchCA (s : State) (P : Params) (w : Vector Sample 160) :
    (s.lowpass P w).scratchCA = s.scratchCA := rfl
@[simp] theorem State.lowpass_scratchAVG (s : State) (P : Params) (w : Vector Sample 160) :
    (s.lowpass P w).scratchAVG = s.scratchAVG := rfl
@[simp] theorem State.lowpass_work (s : State) (P : Params) (w : Vector Sample 160) :
    (s.lowpass P w).work = s.work := rfl
@[simp] theorem State.lowpass_port (s : State) (P : Params) (w : Vector Sample 160) :
    (s.lowpass P w).port = s.port := rfl
@[simp] theorem State.lowpass_sink (s : State) (P : Params) (w : Vector Sample 160) :
    (s.lowpass P w).sink = s.sink := rfl
@[simp] theorem State.lowpass_sinkAccepts (s : State) (P : Params) (w : Vector Sample 160) :
    (s.lowpass P w).sinkAccepts = s.sinkAccepts := rfl
@[simp] theorem State.lowpass_trace (s : State) (P : Params) (w : Vector Sample 160) :
    (s.lowpass P w).trace = s.trace := rfl
@[simp] theorem State.lowpass_response (s : State) (P : Params) (w : Vector Sample 160) :
    (s.lowpass P w).response = s.response := rfl
@[simp] theorem State.lowpass_inputs (s : State) (P : Params) (w : Vector Sample 160) :
    (s.lowpass P w).inputs = s.inputs := rfl
@[simp] theorem State.lowpass_resets (s : State) (P : Params) (w : Vector Sample 160) :
    (s.lowpass P w).resets = s.resets := rfl

/-! ### `retain` -/

@[simp] theorem State.retain_rstAsserted (s : State) (q g : Word) :
    (s.retain q g).rstAsserted = s.rstAsserted := rfl
@[simp] theorem State.retain_doneIE (s : State) (q g : Word) :
    (s.retain q g).doneIE = s.doneIE := rfl
@[simp] theorem State.retain_errIE (s : State) (q g : Word) :
    (s.retain q g).errIE = s.errIE := rfl
@[simp] theorem State.retain_busy (s : State) (q g : Word) :
    (s.retain q g).busy = s.busy := rfl
@[simp] theorem State.retain_done (s : State) (q g : Word) :
    (s.retain q g).done = s.done := rfl
@[simp] theorem State.retain_err (s : State) (q g : Word) :
    (s.retain q g).err = s.err := rfl
@[simp] theorem State.retain_busyErr (s : State) (q g : Word) :
    (s.retain q g).busyErr = s.busyErr := rfl
@[simp] theorem State.retain_cfgErr (s : State) (q g : Word) :
    (s.retain q g).cfgErr = s.cfgErr := rfl
@[simp] theorem State.retain_errcode (s : State) (q g : Word) :
    (s.retain q g).errcode = s.errcode := rfl
@[simp] theorem State.retain_rsState (s : State) (q g : Word) :
    (s.retain q g).rsState = .tracking := rfl
@[simp] theorem State.retain_strategy (s : State) (q g : Word) :
    (s.retain q g).strategy = s.strategy := rfl
@[simp] theorem State.retain_seqno (s : State) (q g : Word) :
    (s.retain q g).seqno = s.seqno := rfl
@[simp] theorem State.retain_prevSeqno (s : State) (q g : Word) :
    (s.retain q g).prevSeqno = q := rfl
@[simp] theorem State.retain_gaplen (s : State) (q g : Word) :
    (s.retain q g).gaplen = g := rfl
@[simp] theorem State.retain_sinkPkts (s : State) (q g : Word) :
    (s.retain q g).sinkPkts = s.sinkPkts := rfl
@[simp] theorem State.retain_sinkCapLessOne (s : State) (q g : Word) :
    (s.retain q g).sinkCapLessOne = s.sinkCapLessOne := rfl
@[simp] theorem State.retain_arg0 (s : State) (q g : Word) :
    (s.retain q g).arg0 = s.arg0 := rfl
@[simp] theorem State.retain_arg1 (s : State) (q g : Word) :
    (s.retain q g).arg1 = s.arg1 := rfl
@[simp] theorem State.retain_arg2 (s : State) (q g : Word) :
    (s.retain q g).arg2 = s.arg2 := rfl
@[simp] theorem State.retain_pending (s : State) (q g : Word) :
    (s.retain q g).pending = s.pending := rfl
@[simp] theorem State.retain_sram (s : State) (q g : Word) :
    (s.retain q g).sram = s.sram.write (sampleOffset prevBase) (s.inRegion.flatMap sampleBytes) := rfl
@[simp] theorem State.retain_scratchS (s : State) (q g : Word) :
    (s.retain q g).scratchS = s.scratchS := rfl
@[simp] theorem State.retain_scratchW (s : State) (q g : Word) :
    (s.retain q g).scratchW = s.scratchW := rfl
@[simp] theorem State.retain_scratchR (s : State) (q g : Word) :
    (s.retain q g).scratchR = s.scratchR := rfl
@[simp] theorem State.retain_scratchCP (s : State) (q g : Word) :
    (s.retain q g).scratchCP = s.scratchCP := rfl
@[simp] theorem State.retain_scratchCA (s : State) (q g : Word) :
    (s.retain q g).scratchCA = s.scratchCA := rfl
@[simp] theorem State.retain_scratchAVG (s : State) (q g : Word) :
    (s.retain q g).scratchAVG = s.scratchAVG := rfl
@[simp] theorem State.retain_work (s : State) (q g : Word) :
    (s.retain q g).work = s.work := rfl
@[simp] theorem State.retain_port (s : State) (q g : Word) :
    (s.retain q g).port = s.port := rfl
@[simp] theorem State.retain_sink (s : State) (q g : Word) :
    (s.retain q g).sink = s.sink := rfl
@[simp] theorem State.retain_sinkAccepts (s : State) (q g : Word) :
    (s.retain q g).sinkAccepts = s.sinkAccepts := rfl
@[simp] theorem State.retain_trace (s : State) (q g : Word) :
    (s.retain q g).trace = s.trace := rfl
@[simp] theorem State.retain_response (s : State) (q g : Word) :
    (s.retain q g).response = s.response := rfl
@[simp] theorem State.retain_inputs (s : State) (q g : Word) :
    (s.retain q g).inputs = s.inputs := rfl
@[simp] theorem State.retain_resets (s : State) (q g : Word) :
    (s.retain q g).resets = s.resets := rfl

/-! ### `afterTxn` and `transact`, for an append and for an amend -/

@[simp] theorem State.transact_append_rstAsserted (s : State) (p : List Sample) :
    (s.transact (.append p)).rstAsserted = s.rstAsserted := rfl
@[simp] theorem State.transact_amend_rstAsserted (s : State) (a : List Sample) :
    (s.transact (.amend a)).rstAsserted = s.rstAsserted := rfl
@[simp] theorem State.transact_append_doneIE (s : State) (p : List Sample) :
    (s.transact (.append p)).doneIE = s.doneIE := rfl
@[simp] theorem State.transact_amend_doneIE (s : State) (a : List Sample) :
    (s.transact (.amend a)).doneIE = s.doneIE := rfl
@[simp] theorem State.transact_append_errIE (s : State) (p : List Sample) :
    (s.transact (.append p)).errIE = s.errIE := rfl
@[simp] theorem State.transact_amend_errIE (s : State) (a : List Sample) :
    (s.transact (.amend a)).errIE = s.errIE := rfl
@[simp] theorem State.transact_append_busy (s : State) (p : List Sample) :
    (s.transact (.append p)).busy = s.busy := rfl
@[simp] theorem State.transact_amend_busy (s : State) (a : List Sample) :
    (s.transact (.amend a)).busy = s.busy := rfl
@[simp] theorem State.transact_append_done (s : State) (p : List Sample) :
    (s.transact (.append p)).done = s.done := rfl
@[simp] theorem State.transact_amend_done (s : State) (a : List Sample) :
    (s.transact (.amend a)).done = s.done := rfl
@[simp] theorem State.transact_append_err (s : State) (p : List Sample) :
    (s.transact (.append p)).err = s.err := rfl
@[simp] theorem State.transact_amend_err (s : State) (a : List Sample) :
    (s.transact (.amend a)).err = s.err := rfl
@[simp] theorem State.transact_append_busyErr (s : State) (p : List Sample) :
    (s.transact (.append p)).busyErr = s.busyErr := rfl
@[simp] theorem State.transact_amend_busyErr (s : State) (a : List Sample) :
    (s.transact (.amend a)).busyErr = s.busyErr := rfl
@[simp] theorem State.transact_append_cfgErr (s : State) (p : List Sample) :
    (s.transact (.append p)).cfgErr = s.cfgErr := rfl
@[simp] theorem State.transact_amend_cfgErr (s : State) (a : List Sample) :
    (s.transact (.amend a)).cfgErr = s.cfgErr := rfl
@[simp] theorem State.transact_append_errcode (s : State) (p : List Sample) :
    (s.transact (.append p)).errcode = s.errcode := rfl
@[simp] theorem State.transact_amend_errcode (s : State) (a : List Sample) :
    (s.transact (.amend a)).errcode = s.errcode := rfl
@[simp] theorem State.transact_append_rsState (s : State) (p : List Sample) :
    (s.transact (.append p)).rsState = s.rsState := rfl
@[simp] theorem State.transact_amend_rsState (s : State) (a : List Sample) :
    (s.transact (.amend a)).rsState = s.rsState := rfl
@[simp] theorem State.transact_append_strategy (s : State) (p : List Sample) :
    (s.transact (.append p)).strategy = s.strategy := rfl
@[simp] theorem State.transact_amend_strategy (s : State) (a : List Sample) :
    (s.transact (.amend a)).strategy = s.strategy := rfl
@[simp] theorem State.transact_append_seqno (s : State) (p : List Sample) :
    (s.transact (.append p)).seqno = s.seqno := rfl
@[simp] theorem State.transact_amend_seqno (s : State) (a : List Sample) :
    (s.transact (.amend a)).seqno = s.seqno := rfl
@[simp] theorem State.transact_append_prevSeqno (s : State) (p : List Sample) :
    (s.transact (.append p)).prevSeqno = s.prevSeqno := rfl
@[simp] theorem State.transact_amend_prevSeqno (s : State) (a : List Sample) :
    (s.transact (.amend a)).prevSeqno = s.prevSeqno := rfl
@[simp] theorem State.transact_append_gaplen (s : State) (p : List Sample) :
    (s.transact (.append p)).gaplen = s.gaplen := rfl
@[simp] theorem State.transact_amend_gaplen (s : State) (a : List Sample) :
    (s.transact (.amend a)).gaplen = s.gaplen := rfl
@[simp] theorem State.transact_append_sinkPkts (s : State) (p : List Sample) :
    (s.transact (.append p)).sinkPkts = s.sinkPkts + 1 := rfl
@[simp] theorem State.transact_amend_sinkPkts (s : State) (a : List Sample) :
    (s.transact (.amend a)).sinkPkts = s.sinkPkts := rfl
@[simp] theorem State.transact_append_sinkCapLessOne (s : State) (p : List Sample) :
    (s.transact (.append p)).sinkCapLessOne = s.sinkCapLessOne := rfl
@[simp] theorem State.transact_amend_sinkCapLessOne (s : State) (a : List Sample) :
    (s.transact (.amend a)).sinkCapLessOne = s.sinkCapLessOne := rfl
@[simp] theorem State.transact_append_arg0 (s : State) (p : List Sample) :
    (s.transact (.append p)).arg0 = s.arg0 := rfl
@[simp] theorem State.transact_amend_arg0 (s : State) (a : List Sample) :
    (s.transact (.amend a)).arg0 = s.arg0 := rfl
@[simp] theorem State.transact_append_arg1 (s : State) (p : List Sample) :
    (s.transact (.append p)).arg1 = s.arg1 := rfl
@[simp] theorem State.transact_amend_arg1 (s : State) (a : List Sample) :
    (s.transact (.amend a)).arg1 = s.arg1 := rfl
@[simp] theorem State.transact_append_arg2 (s : State) (p : List Sample) :
    (s.transact (.append p)).arg2 = s.arg2 := rfl
@[simp] theorem State.transact_amend_arg2 (s : State) (a : List Sample) :
    (s.transact (.amend a)).arg2 = s.arg2 := rfl
@[simp] theorem State.transact_append_pending (s : State) (p : List Sample) :
    (s.transact (.append p)).pending = s.pending := rfl
@[simp] theorem State.transact_amend_pending (s : State) (a : List Sample) :
    (s.transact (.amend a)).pending = s.pending := rfl
@[simp] theorem State.transact_append_sram (s : State) (p : List Sample) :
    (s.transact (.append p)).sram = s.sram.write (sampleOffset tailBase) ((p.drop 240).flatMap sampleBytes) := rfl
@[simp] theorem State.transact_amend_sram (s : State) (a : List Sample) :
    (s.transact (.amend a)).sram = s.sram.write (sampleOffset tailBase) (a.flatMap sampleBytes) := rfl
@[simp] theorem State.transact_append_scratchS (s : State) (p : List Sample) :
    (s.transact (.append p)).scratchS = s.scratchS := rfl
@[simp] theorem State.transact_amend_scratchS (s : State) (a : List Sample) :
    (s.transact (.amend a)).scratchS = s.scratchS := rfl
@[simp] theorem State.transact_append_scratchW (s : State) (p : List Sample) :
    (s.transact (.append p)).scratchW = s.scratchW := rfl
@[simp] theorem State.transact_amend_scratchW (s : State) (a : List Sample) :
    (s.transact (.amend a)).scratchW = s.scratchW := rfl
@[simp] theorem State.transact_append_scratchR (s : State) (p : List Sample) :
    (s.transact (.append p)).scratchR = s.scratchR := rfl
@[simp] theorem State.transact_amend_scratchR (s : State) (a : List Sample) :
    (s.transact (.amend a)).scratchR = s.scratchR := rfl
@[simp] theorem State.transact_append_scratchCP (s : State) (p : List Sample) :
    (s.transact (.append p)).scratchCP = s.scratchCP := rfl
@[simp] theorem State.transact_amend_scratchCP (s : State) (a : List Sample) :
    (s.transact (.amend a)).scratchCP = s.scratchCP := rfl
@[simp] theorem State.transact_append_scratchCA (s : State) (p : List Sample) :
    (s.transact (.append p)).scratchCA = s.scratchCA := rfl
@[simp] theorem State.transact_amend_scratchCA (s : State) (a : List Sample) :
    (s.transact (.amend a)).scratchCA = s.scratchCA := rfl
@[simp] theorem State.transact_append_scratchAVG (s : State) (p : List Sample) :
    (s.transact (.append p)).scratchAVG = s.scratchAVG := rfl
@[simp] theorem State.transact_amend_scratchAVG (s : State) (a : List Sample) :
    (s.transact (.amend a)).scratchAVG = s.scratchAVG := rfl
@[simp] theorem State.transact_append_work (s : State) (p : List Sample) :
    (s.transact (.append p)).work = s.work := rfl
@[simp] theorem State.transact_amend_work (s : State) (a : List Sample) :
    (s.transact (.amend a)).work = s.work := rfl
@[simp] theorem State.transact_append_port (s : State) (p : List Sample) :
    (s.transact (.append p)).port = s.port := rfl
@[simp] theorem State.transact_amend_port (s : State) (a : List Sample) :
    (s.transact (.amend a)).port = s.port := rfl
@[simp] theorem State.transact_append_sink (s : State) (p : List Sample) :
    (s.transact (.append p)).sink = s.sink ++ p := rfl
@[simp] theorem State.transact_amend_sink (s : State) (a : List Sample) :
    (s.transact (.amend a)).sink = (Txn.amend a).onSink s.sink := rfl
@[simp] theorem State.transact_append_sinkAccepts (s : State) (p : List Sample) :
    (s.transact (.append p)).sinkAccepts = s.sinkAccepts := rfl
@[simp] theorem State.transact_amend_sinkAccepts (s : State) (a : List Sample) :
    (s.transact (.amend a)).sinkAccepts = s.sinkAccepts := rfl
@[simp] theorem State.transact_append_trace (s : State) (p : List Sample) :
    (s.transact (.append p)).trace = s.trace ++ [.append p] := rfl
@[simp] theorem State.transact_amend_trace (s : State) (a : List Sample) :
    (s.transact (.amend a)).trace = s.trace ++ [.amend a] := rfl
@[simp] theorem State.transact_append_response (s : State) (p : List Sample) :
    (s.transact (.append p)).response = s.response := rfl
@[simp] theorem State.transact_amend_response (s : State) (a : List Sample) :
    (s.transact (.amend a)).response = s.response := rfl
@[simp] theorem State.transact_append_inputs (s : State) (p : List Sample) :
    (s.transact (.append p)).inputs = s.inputs := rfl
@[simp] theorem State.transact_amend_inputs (s : State) (a : List Sample) :
    (s.transact (.amend a)).inputs = s.inputs := rfl
@[simp] theorem State.transact_append_resets (s : State) (p : List Sample) :
    (s.transact (.append p)).resets = s.resets := rfl
@[simp] theorem State.transact_amend_resets (s : State) (a : List Sample) :
    (s.transact (.amend a)).resets = s.resets := rfl

end Sys2Proof.Machine
end

