-- ==== Sys2Proof/Laws/Memory.lean ====
section
/-! SUPPORT. What the sample memory's operations do: a read after a write, the canonical form, and the same for
samples. -/

namespace Sys2Proof.Machine

/-! ### Cells -/

theorem Memory.read_append (a : Nat) (m n : Memory) :
    Memory.read a (m ++ n) = (Memory.read a m).or (Memory.read a n) := by
  induction m with
  | nil => simp [Memory.read]
  | cons c m ih =>
    simp only [List.cons_append, Memory.read]
    split
    · simp
    · exact ih

/-- A filter on offsets keeps the read of an offset it keeps, and hides any other. -/
theorem Memory.read_filter (a : Nat) (p : Nat → Bool) (m : Memory) :
    Memory.read a (m.filter fun c => p c.1) = if p a then Memory.read a m else none := by
  induction m with
  | nil => simp [Memory.read]
  | cons c m ih =>
    by_cases hc : p c.1 <;> by_cases ha : c.1 = a
    · subst ha; simp [hc, Memory.read]
    · simp [hc, Memory.read, ha, ih]
    · subst ha; simp [hc, ih]
    · simp [hc, Memory.read, ha, ih]

theorem read_cellsAt (a w : Nat) (bs : List Byte) :
    Memory.read a (cellsAt w bs) = if w ≤ a then bs[a - w]? else none := by
  induction bs generalizing w with
  | nil => simp [cellsAt, Memory.read]
  | cons b bs ih =>
    simp only [cellsAt, Memory.read, ih]
    by_cases h : w = a
    · subst h; simp
    · by_cases h' : w ≤ a
      · have : a - w = (a - (w + 1)) + 1 := by omega
        simp [h, h', this, show w + 1 ≤ a by omega]
      · simp [h, h', show ¬ w + 1 ≤ a by omega]

/-- Read after write: the written byte inside the written range, and what stood there outside it. -/
theorem Memory.read_write (a w : Nat) (bs : List Byte) (m : Memory) :
    (m.write w bs).read a =
      if w ≤ a ∧ a < w + bs.length then bs[a - w]? else m.read a := by
  have h1 := Memory.read_filter a (fun k => decide (k < w)) m
  have h2 := Memory.read_filter a (fun k => decide (w + bs.length ≤ k)) m
  simp only [Memory.write, Memory.read_append, read_cellsAt, h1, h2, decide_eq_true_eq]
  by_cases hlo : a < w
  · have : ¬ w ≤ a := by omega
    simp [hlo, this, show ¬ w + bs.length ≤ a by omega]
  · by_cases hhi : a < w + bs.length
    · have : a - w < bs.length := by omega
      simp [hlo, hhi, show w ≤ a by omega, this, show ¬ w + bs.length ≤ a by omega]
    · simp [hlo, hhi, show w ≤ a by omega, show w + bs.length ≤ a by omega,
        show bs.length ≤ a - w by omega]

theorem Memory.read_write_outside {a w : Nat} {bs : List Byte} (m : Memory)
    (h : a < w ∨ w + bs.length ≤ a) : (m.write w bs).read a = m.read a := by
  rw [Memory.read_write, if_neg (by omega)]

theorem mem_cellsAt {c : Host.Cell} {w : Nat} {bs : List Byte} (h : c ∈ cellsAt w bs) :
    w ≤ c.1 ∧ c.1 < w + bs.length := by
  induction bs generalizing w with
  | nil => simp [cellsAt] at h
  | cons b bs ih =>
    rcases List.mem_cons.1 h with rfl | h
    · simp
    · have := ih h
      simp only [List.length_cons]
      omega

theorem cellsAt_rising (w : Nat) (bs : List Byte) :
    (cellsAt w bs).Pairwise fun c d => c.1 < d.1 := by
  induction bs generalizing w with
  | nil => simp [cellsAt]
  | cons b bs ih =>
    refine List.pairwise_cons.2 ⟨fun d hd => ?_, ih _⟩
    have := mem_cellsAt hd
    show w < d.1
    omega

theorem Memory.wf_nil : Memory.wf [] := by simp [Memory.wf]

/-- Every write inside the sample space keeps the canonical form. -/
theorem Memory.wf_write {m : Memory} {w : Nat} {bs : List Byte} (hm : m.wf)
    (hlo : sramBase ≤ w) (hhi : w + bs.length ≤ sramEnd) : (m.write w bs).wf := by
  obtain ⟨hp, hr⟩ := hm
  refine ⟨?_, ?_⟩
  · refine List.pairwise_append.2 ⟨List.pairwise_append.2 ⟨hp.filter _, cellsAt_rising _ _, ?_⟩, hp.filter _, ?_⟩
    · intro c hc d hd
      have h1 := of_decide_eq_true (List.mem_filter.1 hc).2
      have h2 := mem_cellsAt hd
      omega
    · intro c hc d hd
      have h2 := of_decide_eq_true (List.mem_filter.1 hd).2
      rcases List.mem_append.1 hc with hc | hc
      · have h1 := of_decide_eq_true (List.mem_filter.1 hc).2
        omega
      · have h1 := mem_cellsAt hc
        omega
  · intro c hc
    rcases List.mem_append.1 hc with hc | hc
    · rcases List.mem_append.1 hc with hc | hc
      · exact hr c (List.mem_filter.1 hc).1
      · have := mem_cellsAt hc
        omega
    · exact hr c (List.mem_filter.1 hc).1

/-! ### Bytes -/

/-- A byte read after bytes were stored. -/
theorem State.byteAt_storeBytes (s : State) (w : Nat) (bs : List Byte) (a : Nat) :
    (s.storeBytes w bs).byteAt a =
      if w ≤ a ∧ a < w + bs.length then bs.getD (a - w) 0 else s.byteAt a := by
  simp only [State.byteAt, State.storeBytes, Memory.read_write]
  split
  · rename_i h
    have : a - w < bs.length := by omega
    simp [this]
  · rfl

theorem State.byteAt_storeBytes_outside (s : State) {w : Nat} {bs : List Byte} {a : Nat}
    (h : a < w ∨ w + bs.length ≤ a) : (s.storeBytes w bs).byteAt a = s.byteAt a := by
  rw [State.byteAt_storeBytes, if_neg (by omega)]

/-- A state with the same memory and the same count of resets reads the same bytes. -/
theorem State.byteAt_congr {s t : State} (hm : t.sram = s.sram) (hr : t.resets = s.resets) (a : Nat) :
    t.byteAt a = s.byteAt a := by
  simp [State.byteAt, hm, hr]

/-! ### Samples -/

theorem flatMap_sampleBytes_length (xs : List Sample) :
    (xs.flatMap sampleBytes).length = 2 * xs.length := by
  induction xs with
  | nil => rfl
  | cons x xs ih => simp only [List.flatMap_cons, List.length_append, ih, List.length_cons, sampleBytes,
      List.length_nil]; omega

theorem flatMap_sampleBytes_get (xs : List Sample) (k : Nat) (h : k < xs.length) :
    (xs.flatMap sampleBytes).getD (2 * k) 0 = xs[k].extractLsb' 0 8 ∧
      (xs.flatMap sampleBytes).getD (2 * k + 1) 0 = xs[k].extractLsb' 8 8 := by
  induction xs generalizing k with
  | nil => simp at h
  | cons x xs ih =>
    cases k with
    | zero => simp [sampleBytes]
    | succ k =>
      have h2 : 2 * (k + 1) = 2 * k + 1 + 1 := by omega
      have := ih k (by simpa using h)
      simpa [sampleBytes, h2] using this

theorem sample_of_bytes (x : Sample) : (x.extractLsb' 8 8 ++ x.extractLsb' 0 8 : BitVec 16) = x := by
  ext i hi
  simp only [BitVec.getElem_append, BitVec.getElem_extractLsb']
  split
  · simp [BitVec.getLsbD_eq_getElem hi]
  · have : 8 + (i - 8) = i := by omega
    simp [this, BitVec.getLsbD_eq_getElem hi]

/-- A byte read after samples were stored, outside their bytes. -/
theorem State.byteAt_storeSamples_outside (s : State) {start : Nat} {xs : List Sample} {a : Nat}
    (h : a < sampleOffset start ∨ sampleOffset (start + xs.length) ≤ a) :
    (s.storeSamples start xs).byteAt a = s.byteAt a := by
  refine State.byteAt_storeBytes_outside s ?_
  rw [flatMap_sampleBytes_length]
  simp only [sampleOffset] at h ⊢
  omega

/-- A sample read after samples were stored: the stored sample inside their range, and what stood there outside. -/
theorem State.sampleAt_storeSamples (s : State) (start : Nat) (xs : List Sample) (i : Nat) :
    (s.storeSamples start xs).sampleAt i =
      if start ≤ i ∧ i < start + xs.length then nth xs (i - start) else s.sampleAt i := by
  by_cases h : start ≤ i ∧ i < start + xs.length
  · obtain ⟨k, rfl⟩ : ∃ k, i = start + k := ⟨i - start, by omega⟩
    have hk : k < xs.length := by omega
    obtain ⟨h0, h1⟩ := flatMap_sampleBytes_get xs k hk
    have hb : ∀ r < 2, (s.storeSamples start xs).byteAt (sampleOffset (start + k) + r) =
        (xs.flatMap sampleBytes).getD (2 * k + r) 0 := by
      intro r hr
      rw [State.storeSamples, State.byteAt_storeBytes, if_pos]
      · congr 1; simp only [sampleOffset]; omega
      · rw [flatMap_sampleBytes_length]; simp only [sampleOffset]; omega
    have e0 : _ = (xs.flatMap sampleBytes).getD (2 * k) 0 := hb 0 (by omega)
    have e1 := hb 1 (by omega)
    rw [if_pos h, State.sampleAt, e1, show (s.storeSamples start xs).byteAt (sampleOffset (start + k)) = _ from e0,
      h0, h1, sample_of_bytes]
    simp [hk]
  · rw [if_neg h, State.sampleAt, State.sampleAt, State.byteAt_storeSamples_outside,
      State.byteAt_storeSamples_outside] <;> simp only [sampleOffset] <;> omega

@[simp] theorem State.samples_length (s : State) (start n : Nat) : (s.samples start n).length = n := by
  simp [State.samples]

@[simp] theorem State.samples_getElem (s : State) (start n k : Nat) (h : k < (s.samples start n).length) :
    (s.samples start n)[k] = s.sampleAt (start + k) := by
  simp [State.samples]

theorem State.nth_samples (s : State) {start n k : Nat} (h : k < n) :
    nth (s.samples start n) k = s.sampleAt (start + k) := by
  simp [State.samples, h]

theorem State.sampleAt_congr {s t : State} (hm : t.sram = s.sram) (hr : t.resets = s.resets) (i : Nat) :
    t.sampleAt i = s.sampleAt i := by
  simp [State.sampleAt, State.byteAt_congr hm hr]

theorem State.samples_congr {s t : State} (hm : t.sram = s.sram) (hr : t.resets = s.resets) (a n : Nat) :
    t.samples a n = s.samples a n := by
  simp [State.samples, State.sampleAt_congr hm hr]

/-- A range reads back what was just stored to it. -/
theorem State.samples_storeSamples_same (s : State) (start : Nat) (xs : List Sample) :
    (s.storeSamples start xs).samples start xs.length = xs := by
  refine List.ext_getElem (by simp) fun k h1 h2 => ?_
  rw [State.samples_getElem, State.sampleAt_storeSamples, if_pos (by omega)]
  simp [h2]

/-- A range that samples stored elsewhere do not touch reads as before. -/
theorem State.samples_storeSamples_disjoint (s : State) {start : Nat} {xs : List Sample} {a n : Nat}
    (h : a + n ≤ start ∨ start + xs.length ≤ a) :
    (s.storeSamples start xs).samples a n = s.samples a n := by
  refine List.ext_getElem (by simp) fun k h1 h2 => ?_
  have : k < n := by simpa using h2
  rw [State.samples_getElem, State.samples_getElem, State.sampleAt_storeSamples, if_neg (by omega)]

/-- Samples stored inside the sample space keep the canonical form. -/
theorem State.storeSamples_wf {s : State} {start : Nat} {xs : List Sample} (hm : s.sram.wf)
    (h : start + xs.length ≤ sramSamples) : (s.storeSamples start xs).sram.wf := by
  rw [State.storeSamples_sram]
  refine Memory.wf_write hm (by simp [sampleOffset]) ?_
  rw [flatMap_sampleBytes_length]
  simp only [sampleOffset, sramBase, sramEnd, sramSamples] at h ⊢
  omega

/-! ### Fixed arrays -/

/-- `fixed n` is the list itself when the list has `n` entries. -/
theorem fixed_toList {w n : Nat} {xs : List (BitVec w)} (h : xs.length = n) :
    (fixed n xs).toList = xs := by
  subst h
  have : (fixed xs.length xs).toList = (List.range xs.length).map (nth xs) := rfl
  rw [this]
  refine List.ext_getElem (by simp) fun k h1 h2 => ?_
  simp [h2]

theorem fixed_getElem {w n : Nat} (xs : List (BitVec w)) (k : Nat) (h : k < n) :
    (fixed n xs)[k] = nth xs k := by
  have h1 : (fixed n xs).toList = (List.range n).map (nth xs) := rfl
  have h2 : (fixed n xs)[k] = (fixed n xs).toList[k]'(by simpa using h) := by simp
  rw [h2]
  simp only [h1, List.getElem_map, List.getElem_range]

@[simp] theorem fixed_of_toList {w n : Nat} (v : Vector (BitVec w) n) : fixed n v.toList = v := by
  ext k h
  rw [fixed_getElem _ _ h]
  simp [h]

end Sys2Proof.Machine
end

