-- ==== Sys2Proof/Laws/Arith.lean ====
section
/-! SUPPORT. Truncating division, saturation and weighted means, and what the crossfade, the blend and the low-pass
have at each index. -/

/-- The transform pair of this instance keeps property RT (41_transform_lowpass.md R122). -/
theorem Sys2Proof.Config.params_roundTrip : Sys2Proof.Config.params.RoundTrip := Sys2Proof.Config.legal.roundTrip

namespace Sys2Proof.Machine

/-- `tdiv` is the library's division truncated toward zero. -/
theorem tdiv_eq (a : Int) (b : Nat) : tdiv a b = a.tdiv b := by
  rcases Int.natAbs_eq a with h | h
  · rw [tdiv, h]
    rcases Nat.eq_zero_or_pos a.natAbs with h0 | h0
    · simp [h0]
    · rw [Int.sign_eq_one_of_pos (by omega), Int.natAbs_natCast, one_mul]
      rfl
  · rw [tdiv, h]
    rcases Nat.eq_zero_or_pos a.natAbs with h0 | h0
    · simp [h0]
    · rw [Int.sign_eq_neg_one_of_neg (by omega), Int.natAbs_neg, Int.natAbs_natCast, Int.neg_tdiv, neg_one_mul]
      rfl

theorem tdiv_mul_cancel (a : Int) {b : Nat} (h : 0 < b) : tdiv ((b : Int) * a) b = a := by
  rw [tdiv_eq, Int.mul_tdiv_cancel_left _ (by omega)]

theorem tdiv_mono {a c : Int} (b : Nat) (h : a ≤ c) : tdiv a b ≤ tdiv c b := by
  rw [tdiv_eq, tdiv_eq]
  rcases Nat.eq_zero_or_pos b with rfl | hb
  · simp
  · exact Int.tdiv_le_tdiv (by omega) h

/-- The truncated mean of two integers with weights that sum to a positive `b` lies between them. -/
theorem tdiv_mean_between (x y : Int) (p q b : Nat) (hb : 0 < b) (h : p + q = b) :
    min x y ≤ tdiv ((p : Int) * x + (q : Int) * y) b ∧ tdiv ((p : Int) * x + (q : Int) * y) b ≤ max x y := by
  have hs : ((b : Int)) = (p : Int) + (q : Int) := by omega
  have hp : (0 : Int) ≤ p := by omega
  have hq : (0 : Int) ≤ q := by omega
  have hlo : (b : Int) * min x y ≤ (p : Int) * x + (q : Int) * y := by
    rw [hs, add_mul]
    exact add_le_add (mul_le_mul_of_nonneg_left (min_le_left x y) hp) (mul_le_mul_of_nonneg_left (min_le_right x y) hq)
  have hhi : (p : Int) * x + (q : Int) * y ≤ (b : Int) * max x y := by
    rw [hs, add_mul]
    exact add_le_add (mul_le_mul_of_nonneg_left (le_max_left x y) hp) (mul_le_mul_of_nonneg_left (le_max_right x y) hq)
  exact ⟨tdiv_mul_cancel (min x y) hb ▸ tdiv_mono b hlo, tdiv_mul_cancel (max x y) hb ▸ tdiv_mono b hhi⟩

/-- `sat16` leaves a value of the Sample range alone. -/
theorem sat16_toInt {v : Int} (h1 : -32768 ≤ v) (h2 : v ≤ 32767) : (sat16 v).toInt = v := by
  rw [sat16, BitVec.toInt_ofInt, min_eq_right h2, max_eq_right h1, Int.bmod_eq_of_le] <;> omega

/-- `sat32` leaves a value of the coefficient range alone. -/
theorem sat32_toInt {v : Int} (h1 : -2147483648 ≤ v) (h2 : v ≤ 2147483647) : (sat32 v).toInt = v := by
  rw [sat32, BitVec.toInt_ofInt, min_eq_right h2, max_eq_right h1, Int.bmod_eq_of_le] <;> omega

@[simp] theorem sat16_of_sample (x : Sample) : sat16 x.toInt = x := by
  have h1 := x.le_toInt
  have h2 := x.toInt_lt
  exact BitVec.eq_of_toInt_eq (sat16_toInt (by omega) (by omega))

@[simp] theorem xf_length (d s : List Sample) (L : Nat) : (xf d s L).length = L := by
  unfold xf
  split <;> simp

/-- A crossfade at an index, for a length of at least 2. -/
theorem xf_getElem (d s : List Sample) {L i : Nat} (h2 : 2 ≤ L) (h : i < (xf d s L).length) :
    (xf d s L)[i] = sat16 (xfExact (nth d i) (nth s i) L i) := by
  obtain ⟨n, rfl⟩ : ∃ n, L = n + 2 := ⟨L - 2, by omega⟩
  simp [xf]

/-- The low-pass of a window at an index (41_transform_lowpass.md R125). -/
theorem lp_getElem (P : Params) (w : Vector Sample 160) {i : Nat} (h : i < 160) :
    (lp P w)[i] =
      if i < 80 then sat16 (xfExact (lpFiltered P w)[i] w[i] 80 i) else (lpFiltered P w)[i] := by
  rw [lp, fixed_getElem _ _ h]
  have hx : (xf ((lpFiltered P w).toList.take half) (w.toList.take half) half).length = 80 := xf_length _ _ _
  by_cases h80 : i < 80
  · rw [if_pos h80]
    simp only [nth, List.getD_eq_getElem?_getD]
    rw [List.getElem?_append_left (by omega), List.getElem?_eq_getElem (by omega), Option.getD_some,
      xf_getElem _ _ (by decide)]
    simp [nth, h80, h]
  · rw [if_neg h80]
    simp only [nth, List.getD_eq_getElem?_getD]
    rw [List.getElem?_append_right (by omega), hx, List.getElem?_drop, show half + (i - 80) = i by simp [half]; omega]
    simp [h]

/-- The spectrum with its upper half zeroed, at an index. -/
theorem lowHalf_getElem (v : Vector Coef 160) {i : Nat} (h : i < 160) :
    (lowHalf v)[i]'h = if i < 80 then v[i] else 0 := by
  have hl : (v.toList.take cut).length = 80 := by simp [cut]
  rw [lowHalf, fixed_getElem _ _ h]
  simp only [nth, List.getD_eq_getElem?_getD]
  by_cases h80 : i < 80
  · rw [if_pos h80, List.getElem?_append_left (by omega)]
    simp [h80, cut]
  · rw [if_neg h80, List.getElem?_append_right (by omega), List.getElem?_replicate]
    split <;> rfl

/-- The blend of two equal coefficients is that coefficient. -/
theorem blendCoef_self {g k : Nat} (h : k < g) (c : Coef) : blendCoef g k c c = c := by
  have h1 := c.le_toInt
  have h2 := c.toInt_lt
  have e : ((g - k : Nat) : Int) * c.toInt + ((k : Int) + 1) * c.toInt = ((g + 1 : Nat) : Int) * c.toInt := by
    rw [← add_mul]
    congr 1
    omega
  rw [blendCoef, e, tdiv_mul_cancel _ (by omega)]
  exact BitVec.eq_of_toInt_eq (sat32_toInt (by omega) (by omega))

/-- The blend of two equal spectra is that spectrum. -/
theorem blendSpectra_self {g k : Nat} (h : k < g) (c : Vector Coef 320) : blendSpectra g k c c = c := by
  refine Vector.ext fun j hj => ?_
  simp [blendSpectra, fixed_getElem, blendCoef_self h, nth, hj]

/-- A packet that SpectralInterpolate synthesizes between two equal packets is that packet, up to the round-trip tolerance
(43_concealment.md R168; 41_transform_lowpass.md R122). -/
theorem spectralPacket_self {P : Params} (hP : P.RoundTrip) {g k : Nat} (h : k < g) {p : List Sample}
    (hp : p.length = 320) {j : Nat} (hj : j < 320) :
    ((nth (spectralPacket P g k p p) j).toInt - (nth p j).toInt).natAbs ≤ P.tol := by
  have := hP.2 (fixed 320 p) j hj
  simpa [spectralPacket, blendSpectra_self h, fixed_getElem, nth, hj, hp] using this

end Sys2Proof.Machine
end

