-- ==== Sys2Proof/Laws/Engine.lean ====
section
/-! SUPPORT. What the shared operations of the engine can do, said once: acceptance, a transaction, a line, and a run
of lines. -/

namespace Sys2Proof.Machine

/-! ### Acceptance -/

/-- Acceptance answers the state itself, less one transaction of the sink's willingness. -/
theorem State.acceptance_some {s s' : State} (h : s.acceptance = some s') :
    s.sinkAccepts ≠ some 0 ∧ s' = { s with sinkAccepts := s.acceptsAfter 1 } := by
  unfold State.acceptance at h
  split at h
  · rename_i hs
    cases h
    refine ⟨by simp [hs], ?_⟩
    simp only [State.acceptsAfter, hs, Option.map_none]
    cases s; simp_all
  · cases h
  · rename_i n hs
    cases h
    exact ⟨by simp [hs], by simp [State.acceptsAfter, hs]⟩

/-- The sink withholds acceptance exactly when its willingness is used up. -/
theorem State.acceptance_none {s : State} : s.acceptance = none ↔ s.sinkAccepts = some 0 := by
  unfold State.acceptance
  split <;> simp_all

theorem State.acceptance_of_willing {s : State} {n : Nat} (h : s.willAccept (n + 1)) :
    s.acceptance = some { s with sinkAccepts := s.acceptsAfter 1 } := by
  unfold State.acceptance
  split
  · rename_i hs
    simp only [State.acceptsAfter, hs, Option.map_none]
    cases s; simp_all
  · rename_i hs
    exact absurd (h 0 hs) (by omega)
  · rename_i n hs
    simp [State.acceptsAfter, hs]

theorem State.acceptance_unlimited {s : State} (h : s.sinkAccepts = none) : s.acceptance = some s := by
  simp [State.acceptance, h]

/-! ### What no line and no transaction touches -/

/-- Two states agree on everything a command never writes: the operand registers, SINK_CAP and CTRL, the sticky flags, ERR and
ERRCODE, STRATEGY, the level of `rst_n`, and the host's side. -/
structure State.SameHostSide (s t : State) : Prop where
  rstAsserted : t.rstAsserted = s.rstAsserted
  doneIE : t.doneIE = s.doneIE
  errIE : t.errIE = s.errIE
  busyErr : t.busyErr = s.busyErr
  cfgErr : t.cfgErr = s.cfgErr
  err : t.err = s.err
  errcode : t.errcode = s.errcode
  strategy : t.strategy = s.strategy
  seqno : t.seqno = s.seqno
  sinkCapLessOne : t.sinkCapLessOne = s.sinkCapLessOne
  arg0 : t.arg0 = s.arg0
  arg1 : t.arg1 = s.arg1
  arg2 : t.arg2 = s.arg2
  response : t.response = s.response
  inputs : t.inputs = s.inputs
  resets : t.resets = s.resets

theorem State.SameHostSide.rfl (s : State) : s.SameHostSide s := by constructor <;> rfl

theorem State.SameHostSide.trans {s t u : State} (h : s.SameHostSide t) (k : t.SameHostSide u) :
    s.SameHostSide u := by
  constructor
  exacts [k.rstAsserted.trans h.rstAsserted, k.doneIE.trans h.doneIE, k.errIE.trans h.errIE, k.busyErr.trans h.busyErr, k.cfgErr.trans h.cfgErr,
    k.err.trans h.err, k.errcode.trans h.errcode, k.strategy.trans h.strategy, k.seqno.trans h.seqno,
    k.sinkCapLessOne.trans h.sinkCapLessOne,
    k.arg0.trans h.arg0, k.arg1.trans h.arg1, k.arg2.trans h.arg2, k.response.trans h.response,
    k.inputs.trans h.inputs, k.resets.trans h.resets]

theorem State.acceptance_sameHostSide {s s' : State} (h : s.acceptance = some s') : s.SameHostSide s' := by
  obtain ⟨-, rfl⟩ := State.acceptance_some h
  constructor <;> rfl

theorem State.transact_sameHostSide (s : State) (t : Txn) : s.SameHostSide (s.transact t) := by
  cases t <;> constructor <;> rfl

theorem Action.perform_sameHostSide (P : Params) (a : Action) (s : State) :
    s.SameHostSide (a.perform P s) := by
  cases a with
  | splice p => cases p <;> constructor <;> rfl
  | _ => constructor <;> rfl

theorem State.complete_sameHostSide (s : State) : s.SameHostSide s.complete := by
  constructor <;> rfl

theorem State.wait_sameHostSide (s : State) (t : Txn) (l : List Action) : s.SameHostSide (s.wait t l) := by
  constructor <;> rfl

/-! ### A run of lines -/

/-- A relation between states that every accepted transaction, every line, completion and waiting keep holds between
the start and the end of a run of lines. -/
theorem runActions_keeps {Q : State → Prop} (P : Params)
    (accept : ∀ s s' t, s.acceptance = some s' → Q s → Q (s'.transact t))
    (perform : ∀ s a, Q s → Q (Action.perform P s a))
    (complete : ∀ s : State, Q s → Q s.complete)
    (waits : ∀ (s : State) t l, Q s → Q (s.wait t l)) :
    ∀ (lines : List Action) (s : State), Q s → Q (runActions P lines s) := by
  intro lines
  induction lines with
  | nil => exact fun s h => complete s h
  | cons a rest ih =>
    intro s h
    simp only [runActions]
    split
    · exact ih _ (perform s a h)
    · rename_i t _
      split
      · rename_i s' hs
        exact ih _ (accept s s' t hs h)
      · exact waits s t _ h

/-- A run of lines writes nothing of the host's side. -/
theorem runActions_sameHostSide (P : Params) (lines : List Action) (s : State) :
    s.SameHostSide (runActions P lines s) :=
  runActions_keeps (Q := fun t => s.SameHostSide t) P
    (fun _ _ t hs h => (h.trans (State.acceptance_sameHostSide hs)).trans (State.transact_sameHostSide _ t))
    (fun u a h => h.trans (Action.perform_sameHostSide P a u))
    (fun u h => h.trans u.complete_sameHostSide)
    (fun u t l h => h.trans (u.wait_sameHostSide t l))
    lines s (State.SameHostSide.rfl s)

/-- A run of lines ends completed, or waiting at a transaction for the sink. -/
theorem runActions_ends (P : Params) (lines : List Action) (s : State) :
    (∃ u : State, runActions P lines s = u.complete) ∨
      (∃ (u : State) (t : Txn) (rest : List Action), u.sinkAccepts = some 0 ∧ runActions P lines s = u.wait t rest) := by
  induction lines generalizing s with
  | nil => exact .inl ⟨s, rfl⟩
  | cons a rest ih =>
    simp only [runActions]
    split
    · exact ih _
    · split
      · exact ih _
      · rename_i h
        exact .inr ⟨s, _, _, State.acceptance_none.1 h, rfl⟩

/-- A line that issues no transaction is done at once. -/
theorem runActions_line {P : Params} {a : Action} {s : State} (rest : List Action) (h : a.txn P s = none) :
    runActions P (a :: rest) s = runActions P rest (a.perform P s) := by
  simp [runActions, h]

/-- A line whose transaction the sink accepts. -/
theorem runActions_accepted {P : Params} {a : Action} {s : State} {t : Txn} {n : Nat} (rest : List Action)
    (h : a.txn P s = some t) (hw : s.willAccept (n + 1)) :
    runActions P (a :: rest) s =
      runActions P rest (State.transact { s with sinkAccepts := s.acceptsAfter 1 } t) := by
  simp [runActions, h, State.acceptance_of_willing hw]

/-- A line whose transaction the sink does not accept: the engine waits at it. -/
theorem runActions_withheld {P : Params} {a : Action} {s : State} {t : Txn} (rest : List Action)
    (h : a.txn P s = some t) (hw : s.sinkAccepts = some 0) :
    runActions P (a :: rest) s = s.wait t (a :: rest) := by
  simp [runActions, h, State.acceptance_none.2 hw]

theorem State.willAccept_after {s : State} {n : Nat} (h : s.willAccept (n + 1)) (t : Txn) :
    (State.transact { s with sinkAccepts := s.acceptsAfter 1 } t).willAccept n := by
  intro k hk
  have : (State.transact { s with sinkAccepts := s.acceptsAfter 1 } t).sinkAccepts = s.acceptsAfter 1 := by
    cases t <;> rfl
  rw [this, State.acceptsAfter] at hk
  obtain ⟨m, hm, rfl⟩ := Option.map_eq_some_iff.1 hk
  have := h m hm
  omega

/-- The packets that the lines of SMOOTHJ append: one. -/
@[simp] theorem packetsIn_smoothJ (p : Buffer) : packetsIn (smoothJ p) = 1 := by cases p <;> rfl

theorem packetsIn_cons (a : Action) (l : List Action) :
    packetsIn (a :: l) = packetsIn l + if a.appends then 1 else 0 := List.countP_cons ..

theorem packetsIn_append (l m : List Action) : packetsIn (l ++ m) = packetsIn l + packetsIn m :=
  List.countP_append

@[simp] theorem packetsIn_silencePackets (n : Nat) : packetsIn (silencePackets n) = n := by
  simp [packetsIn, silencePackets, Action.appends, List.countP_replicate]

@[simp] theorem packetsIn_smoothFiller (src : Source) : packetsIn (smoothFiller src) = 1 := rfl

theorem packetsIn_flatten_replicate (n : Nat) (l : List Action) :
    packetsIn (List.replicate n l).flatten = n * packetsIn l := by
  induction n with
  | zero => simp [packetsIn]
  | succ n ih => rw [List.replicate_succ, List.flatten_cons, packetsIn_append, ih]; ring

theorem packetsIn_spectral (g : Nat) : packetsIn (spectral g) = g := by
  have h : ∀ l : List Nat, packetsIn (l.flatMap fun k => [.blend g k, .append .spectrum]) = l.length := by
    intro l
    induction l with
    | nil => rfl
    | cons k l ih =>
      rw [List.flatMap_cons, packetsIn_append, ih]
      simp [packetsIn, Action.appends]
      omega
  rw [spectral, packetsIn_cons, h]
  simp [Action.appends]

/-- Every strategy's lines, with the append of IN where the strategy has not written it, append `g + 1` packets
(43_concealment.md R169). -/
theorem packetsIn_arriveActions (g : Nat) (st : Strategy) (seqno : Word) :
    packetsIn (arriveActions g st seqno) = g + 1 := by
  rcases Nat.eq_zero_or_pos g with rfl | hg
  · rfl
  have hin : packetsIn [Action.append Source.input] = 1 := rfl
  have hre : packetsIn [Action.retain seqno (BitVec.ofNat 32 g)] = 0 := rfl
  have hnil : packetsIn [] = 0 := rfl
  rw [arriveActions, if_pos (show 1 ≤ g from hg), packetsIn_append, packetsIn_append, hre]
  cases st
  · simp [fillGap, silenceFill, hin]
  · simp only [fillGap, repeatPrev, packetsIn_cons, packetsIn_silencePackets, Action.appends]
    simp [hin]; omega
  · simp only [fillGap, repeatNext, packetsIn_append, packetsIn_silencePackets, hin]
    simp [hin]; omega
  · simp only [fillGap]
    split
    · subst_vars; rfl
    · simp only [repeatBothMany, packetsIn_append, packetsIn_flatten_replicate, packetsIn_smoothFiller,
        packetsIn_smoothJ]
      simp [hnil]; omega
  · simp [fillGap, packetsIn_spectral, hin]

end Sys2Proof.Machine
end

