-- ==== Sys2Proof/Laws/Commands.lean ====
section
/-! SUPPORT. The checks the commands make, as propositions, and what each command can do, said once: an error with its
reason, or its effect. -/

namespace Sys2Proof.Machine

theorem fits_iff {start n : Nat} : fits start n = true ↔ start + n ≤ 2048 := by
  simp [fits]

theorem State.hasRoom_iff {s : State} {need : Nat} :
    s.hasRoom need = true ↔ s.sinkPkts.toNat + need ≤ s.sinkCap := by
  simp [State.hasRoom]

theorem State.outOfOrder_iff {s : State} :
    s.outOfOrder = true ↔ s.rsState = .tracking ∧ s.seqno.toNat ≤ s.prevSeqno.toNat := by
  simp [State.outOfOrder]

theorem State.gap_of_empty {s : State} (h : s.rsState = .empty) : s.gap = 0 := by
  simp [State.gap, h]

theorem State.gap_of_tracking {s : State} (h : s.rsState = .tracking) :
    s.gap = s.seqno.toNat - s.prevSeqno.toNat - 1 := by
  simp [State.gap, h]

theorem State.sinkCap_lt (s : State) : s.sinkCap < 2 ^ 32 := by
  have := s.sinkCapLessOne.isLt
  simp only [State.sinkCap]
  omega

/-- XFADE stores the crossfade, or raises RANGE. -/
theorem execXfade_cases (s : State) :
    (fits s.dst s.count = true ∧ fits s.src s.count = true ∧ execXfade s =
      .next (s.storeSamples s.dst (xf (s.samples s.dst s.count) (s.samples s.src s.count) s.count)).complete) ∨
    ((fits s.dst s.count = false ∨ fits s.src s.count = false) ∧ execXfade s = .next (s.raiseError .range)) := by
  unfold execXfade
  cases fits s.dst s.count <;> cases fits s.src s.count <;> simp

/-- COPY stores the source samples, or raises RANGE. -/
theorem execCopy_cases (s : State) :
    (fits s.dst s.count = true ∧ fits s.src s.count = true ∧
      execCopy s = .next (s.storeSamples s.dst (s.samples s.src s.count)).complete) ∨
    ((fits s.dst s.count = false ∨ fits s.src s.count = false) ∧ execCopy s = .next (s.raiseError .range)) := by
  unfold execCopy
  cases fits s.dst s.count <;> cases fits s.src s.count <;> simp

/-- FILL0 stores zeros, or raises RANGE. -/
theorem execFill0_cases (s : State) :
    (fits s.dst s.count = true ∧
      execFill0 s = .next (s.storeSamples s.dst (List.replicate s.count 0)).complete) ∨
    (fits s.dst s.count = false ∧ execFill0 s = .next (s.raiseError .range)) := by
  unfold execFill0
  cases fits s.dst s.count <;> simp

/-- LPWIN stores the low-pass of its window, or raises RANGE. -/
theorem lpwin_cases (P : Params) (s : State) :
    (fits s.dst win = true ∧ lpwin P s =
      ((s.lowpass P (fixed 160 (s.samples s.dst win))).storeSamples s.dst
        (lp P (fixed 160 (s.samples s.dst win))).toList).complete) ∨
    (fits s.dst win = false ∧ lpwin P s = s.raiseError .range) := by
  unfold lpwin
  cases fits s.dst win <;> simp

/-- APPEND runs its one line, or raises SINK_FULL. -/
theorem appendIn_cases (P : Params) (s : State) :
    (s.hasRoom 1 = true ∧ appendIn P s = runActions P [.append .input] s) ∨
    (s.hasRoom 1 = false ∧ appendIn P s = s.raiseError .sinkFull) := by
  unfold appendIn
  cases s.hasRoom 1 <;> simp

/-- SMOOTH runs SMOOTHJ(IN), or raises NO_TAIL or SINK_FULL, in that order. -/
theorem smoothIn_cases (P : Params) (s : State) :
    (s.sinkPkts ≠ 0 ∧ s.hasRoom 1 = true ∧ smoothIn P s = runActions P (smoothJ .input) s) ∨
    (s.sinkPkts = 0 ∧ smoothIn P s = s.raiseError .noTail) ∨
    (s.sinkPkts ≠ 0 ∧ s.hasRoom 1 = false ∧ smoothIn P s = s.raiseError .sinkFull) := by
  unfold smoothIn
  by_cases h : s.sinkPkts = 0
  · rw [if_pos h]; exact .inr (.inl ⟨h, rfl⟩)
  · rw [if_neg h]
    cases h1 : s.hasRoom 1
    · rw [if_neg (by simp)]; exact .inr (.inr ⟨h, rfl, rfl⟩)
    · rw [if_pos rfl]; exact .inl ⟨h, rfl, rfl⟩

/-- ARRIVE runs its lines, or raises SEQ_ORDER or SINK_FULL, in that order. -/
theorem arrive_cases (P : Params) (s : State) :
    (s.outOfOrder = false ∧ s.hasRoom (s.gap + 1) = true ∧
      arrive P s = runActions P (arriveActions s.gap s.strategy s.seqno) s) ∨
    (s.outOfOrder = true ∧ arrive P s = s.raiseError .seqOrder) ∨
    (s.outOfOrder = false ∧ s.hasRoom (s.gap + 1) = false ∧ arrive P s = s.raiseError .sinkFull) := by
  unfold arrive
  cases s.outOfOrder <;> cases s.hasRoom (s.gap + 1) <;> simp

/-- What any command can do: complete after storing samples in the SRAM or clearing the session, raise an error,
or run the lines of a command that sends to the sink, after a capacity check. -/
theorem exec_cases (i : Instr) (s : State) :
    (i = .nop ∧ exec i s = .next s.complete) ∨
    (i = .clear ∧
      exec i s = .next (State.complete { s with rsState := .empty, prevSeqno := 0, gaplen := 0, sinkPkts := 0 })) ∨
    (∃ start xs, start + xs.length ≤ 2048 ∧ (i = .xfade ∨ i = .copy ∨ i = .fill0) ∧
      exec i s = .next (s.storeSamples start xs).complete) ∨
    (∃ w, s.dst + 160 ≤ 2048 ∧ i = .lpwin ∧
      exec i s = .next ((s.lowpass Config.params w).storeSamples s.dst (lp Config.params w).toList).complete) ∨
    (∃ code, code ≠ .none ∧ code ≠ .illegalCmd ∧ exec i s = .next (s.raiseError code)) ∨
    (∃ lines, s.sinkPkts.toNat + packetsIn lines ≤ s.sinkCap ∧
      ((i = .append ∧ lines = [.append .input]) ∨ (i = .smooth ∧ lines = smoothJ .input) ∨
        (i = .arrive ∧ s.outOfOrder = false ∧ lines = arriveActions s.gap s.strategy s.seqno)) ∧
      exec i s = .next (runActions Config.params lines s)) := by
  have xlen : ∀ d u : List Sample, ∀ n, (xf d u n).length = n := by
    intro d u n
    unfold xf
    split <;> simp
  cases i with
  | nop => exact .inl ⟨rfl, rfl⟩
  | clear => exact .inr (.inl ⟨rfl, rfl⟩)
  | xfade =>
    rcases execXfade_cases s with ⟨h, -, e⟩ | ⟨-, e⟩
    · exact .inr (.inr (.inl ⟨_, _, by rw [xlen]; exact fits_iff.1 h, .inl rfl, e⟩))
    · exact .inr (.inr (.inr (.inr (.inl ⟨.range, by decide, by decide, e⟩))))
  | copy =>
    rcases execCopy_cases s with ⟨h, -, e⟩ | ⟨-, e⟩
    · exact .inr (.inr (.inl ⟨_, _, by rw [State.samples_length]; exact fits_iff.1 h, .inr (.inl rfl), e⟩))
    · exact .inr (.inr (.inr (.inr (.inl ⟨.range, by decide, by decide, e⟩))))
  | fill0 =>
    rcases execFill0_cases s with ⟨h, e⟩ | ⟨-, e⟩
    · exact .inr (.inr (.inl ⟨_, _, by rw [List.length_replicate]; exact fits_iff.1 h, .inr (.inr rfl), e⟩))
    · exact .inr (.inr (.inr (.inr (.inl ⟨.range, by decide, by decide, e⟩))))
  | lpwin =>
    rcases lpwin_cases Config.params s with ⟨h, e⟩ | ⟨-, e⟩
    · exact .inr (.inr (.inr (.inl ⟨_, fits_iff.1 h, rfl, congrArg Host.Outcome.next e⟩)))
    · exact .inr (.inr (.inr (.inr (.inl ⟨.range, by decide, by decide, congrArg Host.Outcome.next e⟩))))
  | append =>
    rcases appendIn_cases Config.params s with ⟨h, e⟩ | ⟨-, e⟩
    · exact .inr (.inr (.inr (.inr (.inr ⟨[.append .input], State.hasRoom_iff.1 h, .inl ⟨rfl, rfl⟩, congrArg Host.Outcome.next e⟩))))
    · exact .inr (.inr (.inr (.inr (.inl ⟨.sinkFull, by decide, by decide, congrArg Host.Outcome.next e⟩))))
  | smooth =>
    rcases smoothIn_cases Config.params s with ⟨-, h, e⟩ | ⟨-, e⟩ | ⟨-, -, e⟩
    · exact .inr (.inr (.inr (.inr (.inr ⟨smoothJ .input, State.hasRoom_iff.1 h, .inr (.inl ⟨rfl, rfl⟩),
        congrArg Host.Outcome.next e⟩))))
    · exact .inr (.inr (.inr (.inr (.inl ⟨.noTail, by decide, by decide, congrArg Host.Outcome.next e⟩))))
    · exact .inr (.inr (.inr (.inr (.inl ⟨.sinkFull, by decide, by decide, congrArg Host.Outcome.next e⟩))))
  | arrive =>
    rcases arrive_cases Config.params s with ⟨ho, h, e⟩ | ⟨-, e⟩ | ⟨-, -, e⟩
    · exact .inr (.inr (.inr (.inr (.inr ⟨_, by rw [packetsIn_arriveActions]; exact State.hasRoom_iff.1 h,
        .inr (.inr ⟨rfl, ho, rfl⟩), congrArg Host.Outcome.next e⟩))))
    · exact .inr (.inr (.inr (.inr (.inl ⟨.seqOrder, by decide, by decide, congrArg Host.Outcome.next e⟩))))
    · exact .inr (.inr (.inr (.inr (.inl ⟨.sinkFull, by decide, by decide, congrArg Host.Outcome.next e⟩))))

end Sys2Proof.Machine
end

