-- ==== Sys2Proof/Laws/HostPort.lean ====
section
/-! SUPPORT. What an access on the host port can do, said once, and what it does at each register and in the sample
space. -/

namespace Sys2Proof.Machine

theorem Access.inSramSpace_iff {a : Access} : a.inSramSpace = true ↔ 4096 ≤ a.offset.toNat := by
  simp [Access.inSramSpace, sramBase]

theorem Access.inSramSpace_false {a : Access} : a.inSramSpace = false ↔ a.offset.toNat < 4096 := by
  simp [Access.inSramSpace, sramBase]

/-- Which accesses are legal (20_memory.md R54). -/
theorem Access.legal_iff {a : Access} : a.legal = true ↔
    (a.width = .half ∧ 4096 ≤ a.offset.toNat ∧ a.offset.toNat % 2 = 0) ∨
      (a.width = .word ∧ a.offset.toNat % 4 = 0) := by
  unfold Access.legal
  cases h : a.width <;> simp [Access.inSramSpace_iff]

/-- A register stands at its offset, and only there (10_state.md R26). -/
theorem regAt_eq_some {n : Nat} {r : Reg} : regAt n = some r ↔ r.offset = n := by
  constructor
  · intro h
    simpa using List.find?_some h
  · rintro rfl
    cases r <;> rfl

theorem regAt_eq_none {n : Nat} : regAt n = none ↔ ∀ r : Reg, r.offset ≠ n := by
  constructor
  · intro h r hr
    rw [regAt_eq_some.2 hr] at h
    cases h
  · intro h
    cases hr : regAt n with
    | none => rfl
    | some r => exact absurd (regAt_eq_some.1 hr) (h r)

theorem Reg.offset_lt (r : Reg) : r.offset < 0x38 := by cases r <;> decide

theorem Reg.offset_aligned (r : Reg) : r.offset % 4 = 0 := by cases r <;> rfl

/-- What an access can do: get a bus error, be refused, or be performed (20_memory.md R55, R62). -/
theorem State.hostAccess_cases (s : State) (a : Access) :
    (a.legal = false ∧ s.hostAccess a = { s with response := some .busError }) ∨
    (a.legal = true ∧ s.busy = true ∧ a.allowedBusy = false ∧
      s.hostAccess a = { s with busyErr := true, response := some a.refusal }) ∨
    (a.legal = true ∧ (s.busy = false ∨ a.allowedBusy = true) ∧
      s.hostAccess a = { (s.perform a).1 with response := some (s.perform a).2 }) := by
  unfold State.hostAccess
  cases a.legal <;> cases s.busy <;> cases a.allowedBusy <;> simp

/-- A legal read that is not refused changes nothing but the answer (20_memory.md R63). -/
theorem State.perform_read (s : State) {a : Access} (h : a.direction = .read) : (s.perform a).1 = s := by
  unfold State.perform
  simp only [h]
  split <;> split <;> simp_all

/-- A 32-bit read of a register (20_memory.md R56). -/
theorem State.perform_reg_read (s : State) {a : Access} {r : Reg} (ho : a.offset.toNat = r.offset)
    (hd : a.direction = .read) : s.perform a = (s, .read32 (s.readReg r)) := by
  have h1 : a.inSramSpace = false := by
    rw [Access.inSramSpace_false, ho]
    have := r.offset_lt
    omega
  have h2 : regAt a.offset.toNat = some r := regAt_eq_some.2 ho.symm
  simp [State.perform, h1, h2, hd]

/-- A 32-bit write of a register (20_memory.md R57). -/
theorem State.perform_reg_write (s : State) {a : Access} {r : Reg} {v : Word} (ho : a.offset.toNat = r.offset)
    (hd : a.direction = .write v) : s.perform a = (s.writeReg v r, .written) := by
  have h1 : a.inSramSpace = false := by
    rw [Access.inSramSpace_false, ho]
    have := r.offset_lt
    omega
  have h2 : regAt a.offset.toNat = some r := regAt_eq_some.2 ho.symm
  simp [State.perform, h1, h2, hd]

/-- An access to a reserved offset of the register space reads 0 or is ignored (10_state.md R39). -/
theorem State.perform_reserved (s : State) {a : Access} (hs : a.offset.toNat < 4096)
    (hr : regAt a.offset.toNat = none) :
    s.perform a = (s, if a.direction = .read then .read32 0#32 else .written) := by
  have h1 : a.inSramSpace = false := Access.inSramSpace_false.2 hs
  cases hd : a.direction <;> simp [State.perform, h1, hr, hd]

/-- A legal access in the sample space (20_memory.md R58, R59). -/
theorem State.perform_sram (s : State) {a : Access} (hs : 4096 ≤ a.offset.toNat) :
    s.perform a =
      match a.direction, a.width with
      | .read, .half => (s, .read16 (s.read16 a.offset.toNat))
      | .read, _ => (s, .read32 (s.read32 a.offset.toNat))
      | .write v, .half => (s.storeBytes a.offset.toNat (lowBytes v), .written)
      | .write v, _ => (s.storeBytes a.offset.toNat (allBytes v), .written) := by
  have h1 : a.inSramSpace = true := Access.inSramSpace_iff.2 hs
  cases hd : a.direction <;> cases hw : a.width <;> simp [State.perform, h1, hd, hw]

/-- What may be done while BUSY (20_memory.md R62). -/
theorem Access.allowedBusy_iff {a : Access} : a.allowedBusy = true ↔
    (a.direction = .read ∧ ∃ r : Reg, r.offset = a.offset.toNat ∧ r.readableBusy = true) ∨
      (∃ v, a.direction = .write v ∧ ∃ r : Reg, r.offset = a.offset.toNat ∧ r.writableBusy = true) := by
  unfold Access.allowedBusy
  cases hr : regAt a.offset.toNat with
  | none =>
    have := regAt_eq_none.1 hr
    simp [this]
  | some r =>
    have hr' := regAt_eq_some.1 hr
    have huniq : ∀ q : Reg, q.offset = a.offset.toNat → q = r := by
      intro q hq
      rw [regAt_eq_some.2 hq] at hr
      exact Option.some.inj hr
    cases hd : a.direction with
    | read =>
      simp only [reduceCtorEq, false_and, exists_const, or_false, true_and]
      exact ⟨fun h => ⟨r, hr', h⟩, fun ⟨q, hq, h⟩ => huniq q hq ▸ h⟩
    | write v =>
      simp only [reduceCtorEq, false_and, false_or, Direction.write.injEq]
      exact ⟨fun h => ⟨v, rfl, r, hr', h⟩, fun ⟨_, _, q, hq, h⟩ => huniq q hq ▸ h⟩

/-- The acknowledgement is the STATUS write that names DONE and ERR (60_exceptions.md R208). -/
theorem State.writeStatus_acknowledges (s : State) : s.writeStatus 0x00000006#32 = s.acknowledge := by
  simp [State.writeStatus, State.acknowledge]

/-- A sample read as two bytes is the sample (20_memory.md R53, R58). -/
theorem State.read16_sample (s : State) (i : Nat) : s.read16 (0x1000 + 2 * i) = s.sampleAt i := rfl

/-- A 32-bit read of the sample space is two samples, the lower index in the low half (20_memory.md R53). -/
theorem State.read32_samples (s : State) (k : Nat) :
    s.read32 (0x1000 + 4 * k) = s.sampleAt (2 * k + 1) ++ s.sampleAt (2 * k) := by
  have h2 : sampleOffset (2 * k) = 4096 + 4 * k := by simp [sampleOffset, sramBase]; omega
  have h3 : sampleOffset (2 * k + 1) = 4096 + 4 * k + 2 := by simp [sampleOffset, sramBase]; omega
  simp only [State.read32, State.sampleAt, h2, h3]
  generalize s.byteAt (4096 + 4 * k + 3) = b3
  generalize s.byteAt (4096 + 4 * k + 2) = b2
  generalize s.byteAt (4096 + 4 * k + 1) = b1
  generalize s.byteAt (4096 + 4 * k) = b0
  apply BitVec.eq_of_toNat_eq
  simp only [BitVec.toNat_append]
  rw [← Nat.shiftLeft_add_eq_or_of_lt b0.isLt, ← Nat.shiftLeft_add_eq_or_of_lt b1.isLt,
    ← Nat.shiftLeft_add_eq_or_of_lt b2.isLt, ← Nat.shiftLeft_add_eq_or_of_lt b0.isLt]
  have : (b1.toNat <<< 8 + b0.toNat) < 2 ^ 16 := by
    have := b1.isLt
    have := b0.isLt
    simp only [Nat.shiftLeft_eq]
    omega
  rw [← Nat.shiftLeft_add_eq_or_of_lt this]
  simp only [Nat.shiftLeft_eq]
  ring

/-- A 16-bit write is the store of one sample (20_memory.md R59). -/
theorem State.storeBytes_low (s : State) (i : Nat) (v : Word) :
    s.storeBytes (0x1000 + 2 * i) (lowBytes v) = s.storeSamples i [v.extractLsb' 0 16] := by
  have h1 : (v.extractLsb' 0 16).extractLsb' 0 8 = v.extractLsb' 0 8 := by
    ext j hj; simp [BitVec.getElem_extractLsb']
  have h2 : (v.extractLsb' 0 16).extractLsb' 8 8 = v.extractLsb' 8 8 := by
    ext j hj; simp [BitVec.getElem_extractLsb']
  simp [State.storeSamples, sampleOffset, sramBase, lowBytes, sampleBytes, h1, h2]

/-- A 32-bit write is the store of two samples (20_memory.md R59). -/
theorem State.storeBytes_all (s : State) (k : Nat) (v : Word) :
    s.storeBytes (0x1000 + 4 * k) (allBytes v) =
      s.storeSamples (2 * k) [v.extractLsb' 0 16, v.extractLsb' 16 16] := by
  have h1 : (v.extractLsb' 0 16).extractLsb' 0 8 = v.extractLsb' 0 8 := by
    ext j hj; simp [BitVec.getElem_extractLsb']
  have h2 : (v.extractLsb' 0 16).extractLsb' 8 8 = v.extractLsb' 8 8 := by
    ext j hj; simp [BitVec.getElem_extractLsb']
  have h3 : (v.extractLsb' 16 16).extractLsb' 0 8 = v.extractLsb' 16 8 := by
    ext j hj; simp [BitVec.getElem_extractLsb']; omega
  have h4 : (v.extractLsb' 16 16).extractLsb' 8 8 = v.extractLsb' 24 8 := by
    ext j hj; simp [BitVec.getElem_extractLsb', show 16 + (8 + j) = 24 + j by omega]; omega
  have h5 : 4096 + 2 * (2 * k) = 4096 + 4 * k := by omega
  simp [State.storeSamples, sampleOffset, sramBase, allBytes, sampleBytes, h1, h2, h3, h4, h5]

end Sys2Proof.Machine
end

