-- ==== Sys2Proof/Laws/PerInstr.lean ====
section
/-! SUPPORT. What holds of every command as syntax, one lemma per command. -/

namespace Sys2Proof.Laws

/-- The command is well formed, its word is legal, and the decoder reads the command back from it (30_encoding.md R82,
R83, R84). -/
def EncodesLegal.Statement (i : Instr) : Prop :=
  i.wellFormed = true ∧ legalWord (encode i) = true ∧ decodeWord (encode i) = .ok i

theorem EncodesLegal.nop : EncodesLegal.Statement .nop := ⟨rfl, rfl, rfl⟩
theorem EncodesLegal.arrive : EncodesLegal.Statement .arrive := ⟨rfl, rfl, rfl⟩
theorem EncodesLegal.clear : EncodesLegal.Statement .clear := ⟨rfl, rfl, rfl⟩
theorem EncodesLegal.append : EncodesLegal.Statement .append := ⟨rfl, rfl, rfl⟩
theorem EncodesLegal.smooth : EncodesLegal.Statement .smooth := ⟨rfl, rfl, rfl⟩
theorem EncodesLegal.xfade : EncodesLegal.Statement .xfade := ⟨rfl, rfl, rfl⟩
theorem EncodesLegal.copy : EncodesLegal.Statement .copy := ⟨rfl, rfl, rfl⟩
theorem EncodesLegal.fill0 : EncodesLegal.Statement .fill0 := ⟨rfl, rfl, rfl⟩
theorem EncodesLegal.lpwin : EncodesLegal.Statement .lpwin := ⟨rfl, rfl, rfl⟩

end Sys2Proof.Laws
end

