-- ==== Sys2Proof/Laws/Resume.lean ====
section
/-! SUPPORT. What a run of lines adds to the sink, and that a run which waits and then goes on with a willing sink ends
as the run that never waited. -/

namespace Sys2Proof.Machine

/-- A run of lines adds transactions to the record, and the sink holds what those make of it, one after the other. -/
theorem runActions_sink (P : Params) (lines : List Action) (s : State) :
    ∃ txns, (runActions P lines s).trace = s.trace ++ txns ∧
      (runActions P lines s).sink = txns.foldl (fun content txn => txn.onSink content) s.sink := by
  refine runActions_keeps (Q := fun u => ∃ txns, u.trace = s.trace ++ txns ∧
      u.sink = txns.foldl (fun content txn => Txn.onSink txn content) s.sink) P ?_ ?_ ?_ ?_ lines s ⟨[], by simp, rfl⟩
  · rintro u u' t h ⟨x, hx, hy⟩
    obtain ⟨-, rfl⟩ := State.acceptance_some h
    refine ⟨x ++ [t], ?_, ?_⟩
    · cases t <;> simp [State.transact, State.sinkTakes, State.afterTxn, State.storeSamples, State.storeBytes, hx]
    · cases t <;> simp [State.transact, State.sinkTakes, State.afterTxn, State.storeSamples, State.storeBytes, hy]
  · rintro u a ⟨x, hx, hy⟩
    refine ⟨x, ?_, ?_⟩
    · rw [← hx]
      cases a with
      | splice p => cases p <;> rfl
      | _ => rfl
    · rw [← hy]
      cases a with
      | splice p => cases p <;> rfl
      | _ => rfl
  · exact fun _ h => h
  · exact fun _ _ _ h => h

/-- What a line sends does not depend on the engine's record of its place, nor on the sink's willingness. -/
theorem Action.txn_place (P : Params) (a : Action) (s : State) (w : Option (List Action)) (p : Option Txn)
    (o : Option Nat) : Action.txn P { s with work := w, port := p, sinkAccepts := o } a = Action.txn P s a := by
  cases a with
  | append src => cases src <;> rfl
  | _ => rfl

/-- Nor does what a line does, which leaves these as they are. -/
theorem Action.perform_place (P : Params) (a : Action) (s : State) (w : Option (List Action)) (p : Option Txn)
    (o : Option Nat) : Action.perform P { s with work := w, port := p, sinkAccepts := o } a =
      { Action.perform P s a with work := w, port := p, sinkAccepts := o } := by
  cases a with
  | splice q => cases q <;> rfl
  | loadScratch src => cases src <;> rfl
  | _ => rfl

/-- Nor does what a transaction does. -/
theorem State.transact_place (s : State) (t : Txn) (w : Option (List Action)) (p : Option Txn) (o : Option Nat) :
    State.transact { s with work := w, port := p, sinkAccepts := o } t =
      { s.transact t with work := w, port := p, sinkAccepts := o } := by
  cases t <;> rfl

/-- With a sink that accepts without limit, a run does not depend on the engine's record of its place. -/
theorem runActions_place (P : Params) (lines : List Action) (s : State) (w v : Option (List Action))
    (p q : Option Txn) :
    runActions P lines { s with work := w, port := p, sinkAccepts := none } =
      runActions P lines { s with work := v, port := q, sinkAccepts := none } := by
  induction lines generalizing s with
  | nil => rfl
  | cons a rest ih =>
    simp only [runActions, Action.txn_place, Action.perform_place]
    split
    · exact ih _
    · simp only [State.acceptance, State.transact_place]
      exact ih _

/-- A run that waits has lines to do, and going on with them, the sink being willing without limit, gives what the whole
run gives with such a sink (20_memory.md R67, R69). -/
theorem runActions_resume (P : Params) (lines : List Action) (s : State) (o : Option Nat)
    (h : (runActions P lines { s with sinkAccepts := o }).busy = true) :
    ∃ rest, (runActions P lines { s with sinkAccepts := o }).work = some rest ∧
      runActions P rest { runActions P lines { s with sinkAccepts := o } with sinkAccepts := none } =
        runActions P lines { s with sinkAccepts := none } := by
  induction lines generalizing s o with
  | nil => cases h
  | cons a rest ih =>
    have ht := fun o => Action.txn_place P a s s.work s.port o
    have hp := fun o => Action.perform_place P a s s.work s.port o
    simp only [runActions] at h ⊢
    rw [show Action.txn P { s with sinkAccepts := o } a = Action.txn P s a from ht o] at h ⊢
    rw [show Action.txn P { s with sinkAccepts := none } a = Action.txn P s a from ht none]
    rw [show State.acceptance { s with sinkAccepts := none } = some { s with sinkAccepts := none } from rfl]
    cases hx : Action.txn P s a with
    | none =>
      simp only [hx] at h ⊢
      rw [show Action.perform P { s with sinkAccepts := o } a = _ from hp o] at h ⊢
      rw [show Action.perform P { s with sinkAccepts := none } a = _ from hp none]
      exact ih { Action.perform P s a with work := s.work, port := s.port } o h
    | some t =>
      simp only [hx] at h ⊢
      cases ha : State.acceptance { s with sinkAccepts := o } with
      | none =>
        refine ⟨_, rfl, ?_⟩
        refine (runActions_place P (a :: rest) s (some (a :: rest)) s.work (some t) s.port).trans ?_
        simp only [runActions]
        rw [show Action.txn P { s with sinkAccepts := none } a = some t from (ht none).trans hx]
        rfl
      | some s' =>
        obtain ⟨-, rfl⟩ := State.acceptance_some ha
        simp only [ha] at h ⊢
        have hs := fun o => State.transact_place s t s.work s.port o
        rw [hs none]
        have hs' : ∀ o, State.transact { s with sinkAccepts := o } t =
          { s.transact t with work := s.work, port := s.port, sinkAccepts := o } := hs
        rw [hs'] at h ⊢
        exact ih { s.transact t with work := s.work, port := s.port } _ h

end Sys2Proof.Machine
end

