-- ==== Sys2Proof/Laws/Sends.lean ====
section
/-! SUPPORT. What lines send while the sink is willing, said once per group of lines: the transactions, and the regions
they leave. The transactions of a command, and from them the sink's content, follow by composition. -/

namespace Sys2Proof.Machine

/-! ### The regions after a transaction -/

@[simp] theorem silentPacket_length : silentPacket.length = 320 := List.length_replicate

@[simp] theorem State.packet_length (P : Params) (s : State) (src : Source) : (s.packet P src).length = 320 := by
  cases src <;> simp [State.packet, State.inRegion, State.prevRegion]

@[simp] theorem State.buffer_length (s : State) (p : Buffer) : (s.buffer p).length = 320 := by
  cases p <;> simp [State.buffer, State.inRegion]

@[simp] theorem State.packet_source (P : Params) (s : State) (p : Buffer) : s.packet P p.source = s.buffer p := by
  cases p <;> rfl

/-- A transaction the sink accepts, at a state whose willingness covers it. -/
def State.sent (s : State) (t : Txn) : State := State.transact { s with sinkAccepts := s.acceptsAfter 1 } t

@[simp] theorem State.sent_trace (s : State) (t : Txn) : (s.sent t).trace = s.trace ++ [t] := by cases t <;> rfl
@[simp] theorem State.sent_sinkAccepts (s : State) (t : Txn) : (s.sent t).sinkAccepts = s.acceptsAfter 1 := by
  cases t <;> rfl
@[simp] theorem State.sent_resets (s : State) (t : Txn) : (s.sent t).resets = s.resets := by cases t <;> rfl
@[simp] theorem State.sent_scratchS (s : State) (t : Txn) : (s.sent t).scratchS = s.scratchS := by cases t <;> rfl
@[simp] theorem State.sent_scratchR (s : State) (t : Txn) : (s.sent t).scratchR = s.scratchR := by cases t <;> rfl
@[simp] theorem State.sent_scratchCP (s : State) (t : Txn) : (s.sent t).scratchCP = s.scratchCP := by cases t <;> rfl
@[simp] theorem State.sent_scratchCA (s : State) (t : Txn) : (s.sent t).scratchCA = s.scratchCA := by cases t <;> rfl

/-- A transaction changes no sample outside TAIL. -/
theorem State.sent_samples (s : State) {t : Txn} (ht : ∀ xs, t = .amend xs ∨ t = .append xs → xs.length ≤ 320)
    (ha : ∀ xs, t = .amend xs → xs.length ≤ 80) {a n : Nat} (h : a + n ≤ 640 ∨ 720 ≤ a) :
    (s.sent t).samples a n = s.samples a n := by
  cases t with
  | append p =>
    have hp := ht p (.inr rfl)
    exact (State.samples_storeSamples_disjoint _ (by simp only [List.length_drop, tailBase]; omega)).trans (by rfl)
  | amend p =>
    have hp := ha p rfl
    exact (State.samples_storeSamples_disjoint _ (by simp only [tailBase]; omega)).trans (by rfl)

/-- After an append TAIL is the packet's last 80 samples. -/
theorem State.sent_tail_append (s : State) {p : List Sample} (hp : p.length = 320) :
    (s.sent (.append p)).tailRegion = p.drop 240 := by
  have h := State.samples_storeSamples_same
    { (State.sinkTakes { s with sinkAccepts := s.acceptsAfter 1 } (.append p)) with sinkPkts := s.sinkPkts + 1 }
    tailBase (p.drop 240)
  rw [List.length_drop, hp] at h
  exact h

/-- After an amend TAIL is its 80 samples. -/
theorem State.sent_tail_amend (s : State) {p : List Sample} (hp : p.length = 80) :
    (s.sent (.amend p)).tailRegion = p := by
  have h := State.samples_storeSamples_same (State.sinkTakes { s with sinkAccepts := s.acceptsAfter 1 } (.amend p))
    tailBase p
  rw [hp] at h
  exact h

/-! ### Lines that send -/

/-- The lines run from `s` to `u`, whatever lines follow, and send exactly these transactions; PREV stays. -/
structure Sends (P : Params) (lines : List Action) (s u : State) (txns : List Txn) : Prop where
  runs : ∀ rest, runActions P (lines ++ rest) s = runActions P rest u
  trace : u.trace = s.trace ++ txns
  accepts : u.sinkAccepts = s.acceptsAfter txns.length
  prev : u.prevRegion = s.prevRegion

theorem State.acceptsAfter_zero (s : State) : s.sinkAccepts = s.acceptsAfter 0 := by
  cases h : s.sinkAccepts <;> simp [State.acceptsAfter, h]

theorem Sends.nil (P : Params) (s : State) : Sends P [] s s [] :=
  ⟨fun _ => rfl, by simp, s.acceptsAfter_zero, rfl⟩

theorem Sends.append {P : Params} {l m : List Action} {s u v : State} {x y : List Txn}
    (h : Sends P l s u x) (k : Sends P m u v y) : Sends P (l ++ m) s v (x ++ y) := by
  refine ⟨fun rest => ?_, ?_, ?_, k.prev.trans h.prev⟩
  · rw [List.append_assoc, h.runs, k.runs]
  · rw [k.trace, h.trace, List.append_assoc]
  · rw [k.accepts, State.acceptsAfter, h.accepts, State.acceptsAfter, State.acceptsAfter, Option.map_map]
    congr 1
    funext n
    simp only [Function.comp, List.length_append]
    omega

/-- What is left of the sink's willingness after lines that send. -/
theorem Sends.willAccept {P : Params} {l : List Action} {s u : State} {x : List Txn} (h : Sends P l s u x) {n : Nat}
    (hw : s.willAccept (x.length + n)) : u.willAccept n := by
  intro k hk
  rw [h.accepts, State.acceptsAfter] at hk
  obtain ⟨m, hm, rfl⟩ := Option.map_eq_some_iff.1 hk
  have := hw m hm
  omega

/-- A line that sends nothing and leaves PREV, the record and the willingness alone. -/
theorem Sends.line {P : Params} {a : Action} {s : State} (h : a.txn P s = none)
    (ht : (a.perform P s).trace = s.trace) (ha : (a.perform P s).sinkAccepts = s.sinkAccepts)
    (hp : (a.perform P s).prevRegion = s.prevRegion) : Sends P [a] s (a.perform P s) [] :=
  ⟨fun rest => runActions_line rest h, by rw [ht, List.append_nil], ha.trans s.acceptsAfter_zero, hp⟩

/-- An append line sends its packet: IN and scratch stay, and TAIL is the packet's last 80 samples. -/
theorem sends_append (P : Params) (s : State) (src : Source) (hw : s.willAccept 1) :
    Sends P [.append src] s (s.sent (.append (s.packet P src))) [.append (s.packet P src)] ∧
      (s.sent (.append (s.packet P src))).inRegion = s.inRegion ∧
      (s.sent (.append (s.packet P src))).tailRegion = (s.packet P src).drop 240 := by
  have hs : ∀ a n, a + n ≤ 640 → (s.sent (.append (s.packet P src))).samples a n = s.samples a n :=
    fun a n h => s.sent_samples (by rintro xs (h | h) <;> cases h; simp) (by rintro xs h; cases h) (.inl h)
  refine ⟨⟨fun rest => ?_, s.sent_trace _, s.sent_sinkAccepts _, hs _ _ (by decide)⟩, hs _ _ (by decide),
    s.sent_tail_append (by simp)⟩
  exact runActions_accepted (n := 0) rest rfl hw

/-- `n` silent packets. -/
theorem sends_silence (P : Params) (s : State) (n : Nat) (hw : s.willAccept n) :
    ∃ u, Sends P (silencePackets n) s u (List.replicate n (.append silentPacket)) ∧
      u.inRegion = s.inRegion ∧ u.scratchCP = s.scratchCP ∧ u.scratchCA = s.scratchCA := by
  induction n generalizing s with
  | zero => exact ⟨s, Sends.nil P s, rfl, rfl, rfl⟩
  | succ n ih =>
    have hw' : s.willAccept (1 + n) := by rwa [Nat.add_comm]
    obtain ⟨h1, h2, -⟩ := sends_append P s .silence (fun k hk => by have := hw k hk; omega)
    obtain ⟨u, h3, h4, h5, h6⟩ := ih _ (h1.willAccept hw')
    exact ⟨u, h1.append h3, h4.trans h2, h5.trans (s.sent_scratchCP _), h6.trans (s.sent_scratchCA _)⟩

@[simp] theorem smoothed_length (P : Params) (tail p : List Sample) : (smoothed P tail p).length = 160 := by
  simp [smoothed]

@[simp] theorem amendData_length (P : Params) (tail p : List Sample) : (amendData P tail p).length = 80 := by
  simp [amendData, half]

theorem smoothedPacket_length (P : Params) (tail : List Sample) {p : List Sample} (h : p.length = 320) :
    (smoothedPacket P tail p).length = 320 := by
  simp [smoothedPacket, h, half]

/-- `P[0..80) <- xs`, read back as the whole buffer. -/
theorem State.buffer_storeHead (s : State) (p : Buffer) {xs : List Sample} (h : xs.length = 80) :
    (s.storeHead p xs).buffer p = xs ++ (s.buffer p).drop 80 := by
  cases p with
  | scratch =>
    show (fixed 320 _).toList = _
    rw [fixed_toList (by simp [h])]
    rfl
  | input =>
    refine List.ext_getElem (by simp [State.buffer, State.inRegion, h, pkt]) fun k h1 h2 => ?_
    simp only [State.buffer, State.inRegion, State.storeHead, State.samples_getElem, State.sampleAt_storeSamples, h]
    by_cases hk : k < 80
    · rw [if_pos (by simp; omega), List.getElem_append_left (by omega)]
      simp [nth, h, hk]
    · rw [if_neg (by simp; omega), List.getElem_append_right (by omega)]
      simp only [List.getElem_drop, State.samples_getElem, h]
      congr 1
      omega

/-- SMOOTHJ sends an amend and an append: TAIL is then the appended packet's last 80 samples, the buffer it smoothed
holds that packet, and IN stays if it smoothed the scratch packet (42_smoother.md R140). -/
theorem sends_smoothJ (P : Params) (s : State) (p : Buffer) (hw : s.willAccept 2) :
    ∃ u, Sends P (smoothJ p) s u
        [.amend (amendData P s.tailRegion (s.buffer p)), .append (smoothedPacket P s.tailRegion (s.buffer p))] ∧
      u.tailRegion = (smoothedPacket P s.tailRegion (s.buffer p)).drop 240 ∧
      u.buffer p = smoothedPacket P s.tailRegion (s.buffer p) ∧
      (p = .scratch → u.inRegion = s.inRegion) := by
  have hlp : (lp P (s.junction p)).toList = smoothed P s.tailRegion (s.buffer p) := rfl
  have ham : (amendData P s.tailRegion (s.buffer p)).length = 80 := by simp
  have e1 : Sends P [.filter p] s (s.lowpass P (s.junction p)) [] := Sends.line rfl rfl rfl rfl
  have w1 : (s.lowpass P (s.junction p)).willAccept 2 := hw
  generalize ht1 : s.lowpass P (s.junction p) = t1 at e1 w1
  have hb1 : t1.buffer p = s.buffer p := by subst ht1; cases p <;> rfl
  have hr1 : t1.scratchR.toList = smoothed P s.tailRegion (s.buffer p) := by subst ht1; exact hlp
  have hi1 : t1.inRegion = s.inRegion := by subst ht1; rfl
  -- the amend
  have hx : Action.txn P t1 .amend = some (.amend (amendData P s.tailRegion (s.buffer p))) := by
    simp only [Action.txn, hr1]; rfl
  have hs2 : ∀ a n, a + n ≤ 640 → (t1.sent (.amend (amendData P s.tailRegion (s.buffer p)))).samples a n =
      t1.samples a n :=
    fun a n h => t1.sent_samples (by rintro xs (h | h) <;> cases h; simp) (by rintro xs h; cases h; simp) (.inl h)
  have e2 : Sends P [.amend] t1 (t1.sent (.amend (amendData P s.tailRegion (s.buffer p))))
      [.amend (amendData P s.tailRegion (s.buffer p))] :=
    ⟨fun rest => runActions_accepted (n := 1) rest hx w1, t1.sent_trace _, t1.sent_sinkAccepts _,
      hs2 _ _ (by decide)⟩
  have w2 := e2.willAccept (n := 1) w1
  generalize ht2 : t1.sent (.amend (amendData P s.tailRegion (s.buffer p))) = t2 at e2 w2 hs2
  have hb2 : t2.buffer p = s.buffer p := by
    rw [← hb1]
    cases p with
    | input => exact hs2 _ _ (by decide)
    | scratch => subst ht2; simp [State.buffer]
  have hr2 : t2.scratchR.toList = smoothed P s.tailRegion (s.buffer p) := by subst ht2; rw [State.sent_scratchR, hr1]
  have hi2 : t2.inRegion = s.inRegion := (hs2 _ _ (by decide)).trans hi1
  -- the splice
  have hl : (t2.scratchR.toList.drop half).length = 80 := by simp [half]
  have hp3 : (t2.storeHead p (t2.scratchR.toList.drop half)).prevRegion = t2.prevRegion := by
    cases p with
    | input => exact State.samples_storeSamples_disjoint t2 (.inr (by rw [hl]; decide))
    | scratch => rfl
  have e3 : Sends P [.splice p] t2 (t2.storeHead p (t2.scratchR.toList.drop half)) [] :=
    Sends.line rfl (by cases p <;> rfl) (by cases p <;> rfl) hp3
  have hb3 := t2.buffer_storeHead p hl
  have w3 : (t2.storeHead p (t2.scratchR.toList.drop half)).willAccept 1 := by cases p <;> exact w2
  have hi3 : p = .scratch → (t2.storeHead p (t2.scratchR.toList.drop half)).inRegion = s.inRegion := by
    rintro rfl; exact hi2
  generalize t2.storeHead p (t2.scratchR.toList.drop half) = t3 at e3 w3 hb3 hi3
  have hb3' : t3.buffer p = smoothedPacket P s.tailRegion (s.buffer p) := by rw [hb3, hr2, hb2]; rfl
  -- the append
  obtain ⟨e4, h4, h5⟩ := sends_append P t3 p.source w3
  have hb4 : (t3.sent (.append (t3.packet P p.source))).buffer p = t3.buffer p := by
    cases p with
    | input => exact h4
    | scratch => simp [State.buffer]
  rw [State.packet_source, hb3'] at e4 h4 h5 hb4
  refine ⟨_, ?_, h5, hb4, fun hp => h4.trans (hi3 hp)⟩
  have e := ((e1.append e2).append e3).append e4
  exact e

end Sys2Proof.Machine
end

