-- ==== Sys2Proof/Laws/Steps.lean ====
section
/-! SUPPORT. What the fall and the rise of `rst_n`, the engine's turn and a step can do, said once. -/

namespace Sys2Proof.Machine

/-! ### Reset -/

@[simp] theorem State.underReset_underReset (s : State) : s.underReset.underReset = s.underReset := rfl
@[simp] theorem State.underReset_irq (s : State) : s.underReset.irq = false := rfl
@[simp] theorem State.underReset_sinkCap (s : State) : s.underReset.sinkCap = s.sinkCap := rfl

/-- While `rst_n` is 1 a host access keeps all that it did. -/
theorem State.held_released {s : State} (h : s.rstAsserted = false) : s.held = s := by simp [State.held, h]

/-- While `rst_n` is 0 the registers have their reset values after a host access. -/
theorem State.held_asserted {s : State} (h : s.rstAsserted = true) : s.held = s.underReset := by simp [State.held, h]

/-- A further fall of `rst_n` is none. -/
theorem State.assertReset_asserted {s : State} (h : s.rstAsserted = true) (kept : Bool) : s.assertReset kept = s := by
  simp [State.assertReset, h]

/-- The fall of `rst_n`: the registers have their reset values, and the sink has kept the transaction it was receiving,
or has not (70_reset_and_hazards.md R230). -/
theorem State.assertReset_cases {s : State} (h : s.rstAsserted = false) (kept : Bool) :
    ((kept = false ∨ s.port = none) ∧
      s.assertReset kept = { s.underReset with sram := [], resets := s.resets + 1 }) ∨
    (∃ x, kept = true ∧ s.port = some x ∧
      s.assertReset kept = { (s.sinkTakes x).underReset with sram := [], resets := s.resets + 1 }) := by
  cases kept with
  | false => exact .inl ⟨.inl rfl, by simp [State.assertReset, h]⟩
  | true =>
    cases hp : s.port with
    | none => exact .inl ⟨.inr rfl, by simp [State.assertReset, h, hp]⟩
    | some x => exact .inr ⟨x, rfl, rfl, by simp [State.assertReset, h, hp]⟩

/-- A further rise of `rst_n` is none. -/
theorem State.releaseReset_released {s : State} (h : s.rstAsserted = false) (m : List Byte) : s.releaseReset m = s := by
  simp [State.releaseReset, h]

/-- The rise of `rst_n` (70_reset_and_hazards.md R230, R231). -/
theorem State.releaseReset_asserted {s : State} (h : s.rstAsserted = true) (m : List Byte) :
    s.releaseReset m =
      { s.underReset with
        rstAsserted := false
        sram := Memory.write sramBase (m.take 4096) []
        resets := s.resets + 1 } := by
  simp [State.releaseReset, h]

/-- What no host access touches: the level of `rst_n`, the sink's side, SINK_CAP, the moves to come and the counter. -/
theorem State.hostAccess_keeps (s : State) (a : Access) :
    (s.hostAccess a).rstAsserted = s.rstAsserted ∧ (s.hostAccess a).sink = s.sink ∧
    (s.hostAccess a).trace = s.trace ∧ (s.hostAccess a).sinkAccepts = s.sinkAccepts ∧
    (s.hostAccess a).sinkCapLessOne = s.sinkCapLessOne ∧ (s.hostAccess a).inputs = s.inputs ∧
    (s.hostAccess a).resets = s.resets := by
  rcases s.hostAccess_cases a with ⟨-, e⟩ | ⟨-, -, -, e⟩ | ⟨-, -, e⟩ <;> rw [e]
  · exact ⟨rfl, rfl, rfl, rfl, rfl, rfl, rfl⟩
  · exact ⟨rfl, rfl, rfl, rfl, rfl, rfl, rfl⟩
  · cases hd : a.direction with
    | read => rw [State.perform_read s hd]; exact ⟨rfl, rfl, rfl, rfl, rfl, rfl, rfl⟩
    | write v =>
      by_cases hs : 4096 ≤ a.offset.toNat
      · rw [State.perform_sram s hs, hd]
        cases a.width <;> exact ⟨rfl, rfl, rfl, rfl, rfl, rfl, rfl⟩
      · cases hr : regAt a.offset.toNat with
        | none => rw [State.perform_reserved s (by omega) hr]; exact ⟨rfl, rfl, rfl, rfl, rfl, rfl, rfl⟩
        | some r =>
          rw [State.perform_reg_write s (regAt_eq_some.1 hr).symm hd]
          cases r <;> try exact ⟨rfl, rfl, rfl, rfl, rfl, rfl, rfl⟩
          simp only [State.writeReg, State.writeStrategy]
          split <;> exact ⟨rfl, rfl, rfl, rfl, rfl, rfl, rfl⟩

/-- What is left of a host access while `rst_n` is 0: the port's answer, and what it did in the sample memory. -/
theorem State.hostAccess_held {s : State} (h : s.rstAsserted = true) (a : Access) :
    (s.hostAccess a).held =
      { s.underReset with response := (s.hostAccess a).response, sram := (s.hostAccess a).sram } := by
  obtain ⟨h0, h1, h2, h3, h4, h5, h6⟩ := s.hostAccess_keeps a
  rw [State.held_asserted (h0.trans h)]
  simp only [State.underReset, h1, h2, h3, h4, h5, h6]

/-- A host access that is performed does not look at the moves to come. -/
theorem State.perform_inputs (s : State) (a : Access) (l : List Event) :
    State.perform { s with inputs := l } a = ({ (s.perform a).1 with inputs := l }, (s.perform a).2) := by
  by_cases hs : 4096 ≤ a.offset.toNat
  · rw [State.perform_sram _ hs, State.perform_sram _ hs]
    cases a.direction <;> cases a.width <;> rfl
  · cases hr : regAt a.offset.toNat with
    | none => rw [State.perform_reserved _ (by omega) hr, State.perform_reserved _ (by omega) hr]
    | some r =>
      cases hd : a.direction with
      | read =>
        rw [State.perform_reg_read _ (regAt_eq_some.1 hr).symm hd, State.perform_reg_read _ (regAt_eq_some.1 hr).symm hd]
        cases r <;> rfl
      | write v =>
        rw [State.perform_reg_write _ (regAt_eq_some.1 hr).symm hd, State.perform_reg_write _ (regAt_eq_some.1 hr).symm hd]
        cases r <;> try rfl
        simp only [State.writeReg, State.writeStrategy]
        split <;> rfl

/-- A host access does not look at the moves to come. -/
theorem State.hostAccess_inputs (s : State) (a : Access) (l : List Event) :
    State.hostAccess { s with inputs := l } a = { s.hostAccess a with inputs := l } := by
  unfold State.hostAccess
  rw [State.perform_inputs]
  split
  · rfl
  · split <;> rfl

/-! ### The engine's turn -/

/-- What the engine's turn can do: nothing while BUSY is 0, go on with a command that waits, begin the latched command,
complete an illegal word, or fault where nothing is latched (log 19). -/
theorem engineTurn_cases (s : State) :
    (s.busy = false ∧ engineTurn s = .next s) ∨
    (∃ lines, s.busy = true ∧ s.work = some lines ∧ engineTurn s = .next (runActions Config.params lines s)) ∨
    (∃ w i, s.busy = true ∧ s.work = none ∧ s.pending = some w ∧ decodeWord w = .ok i ∧ engineTurn s = exec i s) ∨
    (∃ w e, s.busy = true ∧ s.work = none ∧ s.pending = some w ∧ decodeWord w = .error e ∧
      engineTurn s = .next (s.raiseError .illegalCmd)) ∨
    (s.busy = true ∧ s.work = none ∧ s.pending = none ∧ engineTurn s = .fault .noCommandLatched) := by
  unfold engineTurn
  cases s.busy
  · exact .inl ⟨rfl, rfl⟩
  · cases s.work with
    | some lines => exact .inr (.inl ⟨lines, rfl, rfl, rfl⟩)
    | none =>
      cases s.pending with
      | none => exact .inr (.inr (.inr (.inr ⟨rfl, rfl, rfl, rfl⟩)))
      | some w =>
        cases h : decodeWord w with
        | ok i => exact .inr (.inr (.inl ⟨w, i, rfl, rfl, rfl, h, by simp [h]⟩))
        | error e => exact .inr (.inr (.inr (.inl ⟨w, e, rfl, rfl, rfl, h, by simp [h]⟩)))

/-- The engine moves only while `rst_n` is 1 (70_reset_and_hazards.md R230). -/
theorem engineMoves_released {s : State} (h : s.rstAsserted = false) : engineMoves s = engineTurn s := by
  simp [engineMoves, h]

theorem engineMoves_asserted {s : State} (h : s.rstAsserted = true) : engineMoves s = .next s := by
  simp [engineMoves, h]

/-! ### Steps -/

/-- A step takes the next listed move. -/
theorem step_listed {s : State} {e : Event} {rest : List Event} (h : s.inputs = e :: rest) :
    step s = takeEvent e { s with inputs := rest } := by
  simp [step, worldStep, h]

/-- With no move listed a step is the engine's. -/
theorem step_unlisted {s : State} (h : s.inputs = []) : step s = engineMoves s := by
  simp [step, worldStep, h]

end Sys2Proof.Machine
end

