-- ==== Sys2Proof/Tests/Slice0.lean ====
section
/-! SUPPORT. Tests with expected values from spec/ (95_test_vectors.md names its vectors: H, X, B, L, J, G, A, E, R), and,
for each statement with hypotheses, a witness that meets them. -/

namespace Sys2Proof.Tests

open Sys2Proof Sys2Proof.Machine

/-! ### Small states -/

/-- After reset, with SINK_CAP_PKTS = 16. -/
def fresh : State := { State.reset with sinkCapLessOne := 15 }

/-- `fresh` with a command word latched for the engine. -/
def latched (w : Word) : State := fresh.startCommand w

/-- `fresh` with these samples stored from index `i` on. -/
def holding (i : Nat) (xs : List Sample) : State := fresh.storeSamples i xs

/-- A session in Tracking after one arrival, with this PREV_SEQNO and SEQNO. -/
def session (prev seq : Word) : State :=
  { fresh with rsState := .tracking, prevSeqno := prev, seqno := seq, sinkPkts := 1 }

/-- A session whose sink holds one silent packet, mirrored in TAIL, and whose IN and PREV are stored. -/
def stream : State :=
  { (holding 0 (List.replicate 720 0)) with
    rsState := .tracking, prevSeqno := 10, seqno := 13, sinkPkts := 1, sink := List.replicate 320 0 }

/-- APPEND waits at a sink that withholds acceptance. -/
def waiting : State :=
  { latched 0x3#32 with sinkAccepts := some 0, work := some [.append .input], port := some (.append fresh.inRegion) }

/-- `fresh` while `rst_n` is 0. -/
def resetting : State := fresh.assertReset false

/-- A state of `stream`'s session in which its command waits at a sink that accepts `n` more transactions. -/
def delayed (n : Nat) : State :=
  { stream with
    busy := true
    pending := some 1
    sinkAccepts := some n
    work := some [.append .silence, .append .input, .retain 13 2]
    port := some (.append silentPacket) }

/-- The state after a command, and `s` itself should the command not answer one. -/
def after (i : Instr) (s : State) : State :=
  match exec i s with
  | .next t => t
  | _ => s

/-! ### Well-formedness: each check refuses an ill-formed term -/

theorem test_wellFormed_all : (∀ i : Instr, i.wellFormed = true) := by intro i; cases i <;> rfl
theorem test_reservedClear_refuses : reservedClear 0x00000010#32 = false ∧ reservedClear 0x80000001#32 = false := by decide
theorem test_opcodeAssigned_refuses : opcodeAssigned 0x00000009#32 = false ∧ opcodeAssigned 0x0000000F#32 = false := by decide
theorem test_legalWord_refuses :
    legalWord 0x00000009#32 = false ∧ legalWord 0x00000011#32 = false ∧ legalWord 0xFFFFFFFF#32 = false := by decide
theorem test_legalWord_accepts : legalWord 0x00000008#32 = true := by decide
/-- 40_buffer_utilities.md R104 at its boundary (B8 to B12). -/
theorem test_fits : fits 2047 1 = true ∧ fits 2048 1 = false ∧ fits 2048 0 = true ∧ fits 2049 0 = false ∧
    fits 0 0xFFFFFFFF = false := by decide
/-- H5: the four illegal accesses. -/
theorem test_illegal_accesses :
    (Access.mk 0x1000 .byte .read).legal = false ∧ (Access.mk 0x014 .half (.write 0)).legal = false ∧
    (Access.mk 0x1002 .word .read).legal = false ∧ (Access.mk 0x1001 .half .read).legal = false := by decide

/-! ### Decoding: words written out bit by bit from 30_encoding.md R80 and R82 -/

theorem test_decode_nop : decodeWord 0b00000000000000000000000000000000#32 = .ok .nop := by decide
theorem test_decode_arrive : decodeWord 0b00000000000000000000000000000001#32 = .ok .arrive := by decide
theorem test_decode_clear : decodeWord 0b00000000000000000000000000000010#32 = .ok .clear := by decide
theorem test_decode_append : decodeWord 0b00000000000000000000000000000011#32 = .ok .append := by decide
theorem test_decode_smooth : decodeWord 0b00000000000000000000000000000100#32 = .ok .smooth := by decide
theorem test_decode_xfade : decodeWord 0b00000000000000000000000000000101#32 = .ok .xfade := by decide
theorem test_decode_copy : decodeWord 0b00000000000000000000000000000110#32 = .ok .copy := by decide
theorem test_decode_fill0 : decodeWord 0b00000000000000000000000000000111#32 = .ok .fill0 := by decide
theorem test_decode_lpwin : decodeWord 0b00000000000000000000000000001000#32 = .ok .lpwin := by decide
theorem test_decode_opcode_refused :
    decodeWord 0b00000000000000000000000000001001#32 = .error .reservedOpcode ∧
    decodeWord 0b00000000000000000000000000001111#32 = .error .reservedOpcode := by decide
theorem test_decode_reserved_refused :
    decodeWord 0b00000000000000000000000000010000#32 = .error .reservedBits ∧
    decodeWord 0b10000000000000000000000000000001#32 = .error .reservedBits := by decide
theorem test_decode_short : decode [0x01, 0x00, 0x00] = .error .shortWord := by decide
/-- The table's numbering, and the next step after a word is placed. -/
theorem test_table_word : decodeTableWord 32 4 = some .smooth ∧ decodeTableWord 32 9 = none := by decide
theorem test_placed_word : step (State.reset.withFetchWord 32 0) = .next (State.reset.startCommand 0).complete := by rfl

/-! ### Arithmetic -/

/-- X1 to X7. -/
theorem test_xf :
    xf [0, 0, 0, 0, 0] [100, 100, 100, 100, 100] 5 = [100, 75, 50, 25, 0] ∧
    xf [0, 0, 0, 0] [-100, -100, -100, -100] 4 = [-100, -66, -33, 0] ∧
    xf [32767, 32767, 32767] [-32768, -32768, -32768] 3 = [-32768, 0, 32767] ∧
    xf [1, 2, 3] [10, 20, 30] 3 = [10, 11, 3] ∧ xf [7, 8] [1, 2] 2 = [1, 8] ∧ xf [5] [9] 1 = [9] ∧
    xf [] [] 0 = [] := by decide
/-- X8 and X9, at an index each. -/
theorem test_xf_80 :
    xfExact 1000 0 80 1 = 12 ∧ xfExact 1000 0 80 77 = 974 ∧ xfExact (-1) 0 80 78 = 0 ∧ xfExact (-1) 0 80 79 = -1 := by
  decide
/-- The table of FADE values. -/
theorem test_fade :
    (fade (List.replicate 80 1000)).take 5 = [1000, 987, 974, 962, 949] ∧
    (fade (List.replicate 80 1000)).drop 75 = [50, 37, 25, 12, 0] ∧
    ((fade (List.replicate 80 (-2000))).drop 38).take 4 = [-1037, -1012, -987, -962] ∧
    (fade (List.replicate 80 100)).drop 75 = [5, 3, 2, 1, 0] := by decide +kernel
/-- G15, G16 and G18: the spectral weights, truncated toward zero. -/
theorem test_blend :
    blendCoef 2 0 300 0 = 200 ∧ blendCoef 2 1 300 0 = 100 ∧ blendCoef 2 0 100 (-201) = 0 ∧
    blendCoef 2 1 100 (-201) = -100 ∧ blendCoef 3 2 1000 (-2000) = -1250 := by decide
theorem test_sat : sat16 40000 = 32767 ∧ sat16 (-40000) = -32768 ∧ sat32 (2 ^ 31) = 0x7FFFFFFF#32 := by decide
/-- L1 and L2 at the window's four corners. -/
theorem test_lp_identity :
    ((lp (tcId Config.params) (fixed 160 (List.replicate 80 7 ++ List.replicate 80 (-7)))).toList.drop 78).take 4 = [7, 7, 0, 0] := by
  decide +kernel
theorem test_lp_reversal :
    ((lp (tcRev Config.params) (fixed 160 (List.replicate 80 7 ++ List.replicate 80 (-7)))).toList.drop 67).take 14 =
      [1, 0, 0, 0, 0, 0, 0, 0, 0, 0, 0, 0, 0, -7] := by decide +kernel

/-! ### Commands, at most two tests each -/

/-- A11, A12: NOP completes, and its start cleared the error of the command before it. -/
theorem test_nop : (after .nop (latched 0)).statusWord = 0x00000002#32 := by decide
theorem test_nop_after_error :
    (after .nop (({ fresh with err := true, errcode := .range, cfgErr := true } : State).startCommand 0)).statusWord =
      0x00000012#32 := by decide
/-- A10. -/
theorem test_clear : let t := after .clear { session 5 6 with sinkPkts := 7, gaplen := 3, strategy := .repeatBoth }
    t.statusWord = 0x00000002#32 ∧ t.sinkPkts = 0 ∧ t.prevSeqno = 0 ∧ t.gaplen = 0 ∧ t.strategy = .repeatBoth := by decide
/-- A1. -/
theorem test_arrive_first : let t := after .arrive { latched 1 with seqno := 0x12345678 }
    t.statusWord = 0x00010002#32 ∧ t.prevSeqno = 0x12345678#32 ∧ t.gaplen = 0 ∧ t.sinkPkts = 1 := by decide
/-- A3 and A7. -/
theorem test_arrive_errors : (after .arrive (session 5 5)).statusWord = 0x00010206#32 ∧
    (after .arrive (session 0 0xFFFFFFFF)).statusWord = 0x00010306#32 := by decide
/-- J1, on what it appends, and J4. -/
theorem test_append : (after .append (holding 0 (List.replicate 320 5))).sink = List.replicate 320 5 := by
  have h := State.samples_storeSamples_same fresh 0 (List.replicate 320 5)
  rw [List.length_replicate] at h
  exact h
theorem test_append_full : (after .append { fresh with sinkPkts := 16 }).statusWord = 0x00000306#32 := by decide
/-- J2 and J3. -/
theorem test_smooth_no_tail : (after .smooth fresh).statusWord = 0x00000506#32 := by decide
theorem test_smooth_full : (after .smooth { fresh with sinkPkts := 16 }).statusWord = 0x00000306#32 := by decide
/-- B2 and B13. -/
theorem test_xfade : (after .xfade { holding 0 [0, 10, 20, 30, 40] with arg0 := 1, arg2 := 4 }).samples 0 5 =
    [0, 0, 13, 26, 40] := by decide +kernel
theorem test_xfade_range : (after .xfade { fresh with arg1 := 2000, arg2 := 49 }).statusWord = 0x00000406#32 := by decide
/-- B3 and B4. -/
theorem test_copy_up : (after .copy { holding 0 [1, 2, 3, 4] with arg0 := 1, arg2 := 3 }).samples 0 4 = [1, 1, 2, 3] := by
  decide +kernel
theorem test_copy_down : (after .copy { holding 0 [1, 2, 3, 4] with arg1 := 1, arg2 := 3 }).samples 0 4 = [2, 3, 4, 4] := by
  decide +kernel
/-- B6 and B9. -/
theorem test_fill0 : (after .fill0 { holding 720 [1, 2, 3, 4] with arg0 := 720, arg2 := 3 }).samples 720 4 =
    [0, 0, 0, 4] := by decide +kernel
theorem test_fill0_range : (after .fill0 { fresh with arg0 := 2048, arg2 := 1 }).statusWord = 0x00000406#32 := by decide
/-- L3 and L4. -/
theorem test_lpwin_last : (after .lpwin { fresh with arg0 := 1888 }).errcode = .none := by decide
theorem test_lpwin_range : (after .lpwin { fresh with arg0 := 1889 }).statusWord = 0x00000406#32 := by decide

/-! ### What smoothing sends, and the gap fills -/

/-- J5 and J6. -/
theorem test_smoothing_identity :
    amendData (tcId Config.params) (List.replicate 80 100) (List.replicate 320 (-100)) = List.replicate 80 100 ∧
    smoothedPacket (tcId Config.params) (List.replicate 80 100) (List.replicate 320 (-100)) =
      List.replicate 80 0 ++ List.replicate 240 (-100) := by decide +kernel
theorem test_smoothing_reversal :
    amendData (tcRev Config.params) (List.replicate 80 100) (List.replicate 320 (-100)) = fade (List.replicate 80 100) ∧
    smoothedPacket (tcRev Config.params) (List.replicate 80 100) (List.replicate 320 (-100)) = List.replicate 320 (-100) := by
  decide +kernel
/-- G10: the bridging packet, and the two packets written. -/
theorem test_bridge_identity :
    bridgePacket (tcId Config.params) (List.replicate 320 1000) (List.replicate 320 (-2000)) =
      List.replicate 160 1000 ++ List.replicate 80 0 ++ List.replicate 80 (-2000) := by decide +kernel
/-- G12: the transactions of RepeatBoth for a gap of 3. -/
theorem test_repeat_both_lines : (arriveActions 3 .repeatBoth 14).filter Action.issues =
    [.amend, .append .scratch, .amend, .append .scratch, .amend, .append .scratch, .amend, .append .input] := by decide
/-- G2, G6 and G9. -/
theorem test_fill_lines :
    (arriveActions 2 .silence 13).filter Action.issues = [.append .silence, .append .silence, .append .input] ∧
    (arriveActions 3 .repeatPrevious 14).filter Action.issues =
      [.append .previous, .append .silence, .append .silence, .append .input] ∧
    (arriveActions 3 .repeatNext 14).filter Action.issues =
      [.append .silence, .append .silence, .append .input, .append .input] := by decide

/-! ### The host port -/

/-- H1, H6 and H7. -/
theorem test_read_constants :
    (fresh.hostAccess ⟨0x000, .word, .read⟩).response = some (.read32 0x42534D01#32) ∧
    (fresh.hostAccess ⟨0x004, .word, .read⟩).response = some (.read32 0x08000140#32) ∧
    (fresh.hostAccess ⟨0x038, .word, .read⟩).response = some (.read32 0#32) ∧
    (fresh.hostAccess ⟨0x010, .word, .read⟩) = { fresh with response := some (.read32 0#32) } ∧
    (fresh.hostAccess ⟨0x040, .word, .write 5⟩) = { fresh with response := some .written } := by
  refine ⟨rfl, rfl, rfl, rfl, rfl⟩
/-- H2, H3 and H4. -/
theorem test_sample_access :
    ((fresh.hostAccess ⟨0x1000, .word, .write 0x8000FFFF⟩).hostAccess ⟨0x1002, .half, .read⟩).response =
      some (.read16 0x8000#16) ∧
    ((fresh.hostAccess ⟨0x1000, .word, .write 0x8000FFFF⟩).hostAccess ⟨0x1000, .word, .read⟩).response =
      some (.read32 0x8000FFFF#32) ∧
    (fresh.hostAccess ⟨0x1002, .half, .write 0x0064⟩).sampleAt 1 = 100 := by decide +kernel
/-- H8 and H9. -/
theorem test_ctrl_and_read_only :
    (fresh.hostAccess ⟨0x008, .word, .write 0xFFFFFFFF⟩).readReg .ctrl = 0x00000003#32 ∧
    (fresh.hostAccess ⟨0x01C, .word, .write 7⟩).readReg .prevSeqno = 0 := by decide
/-- H10, H11 and H12. -/
theorem test_busy :
    (waiting.hostAccess ⟨0x00C, .word, .read⟩).response = some (.read32 0x00000001#32) ∧
    (waiting.hostAccess ⟨0x018, .word, .read⟩).response = some (.read32 0#32) ∧
    (waiting.hostAccess ⟨0x018, .word, .read⟩).statusWord = 0x00000009#32 ∧
    (waiting.hostAccess ⟨0x010, .word, .write 2⟩).pending = some 0x3#32 := by decide
/-- H14. -/
theorem test_status_w1c :
    let s := { session 5 6 with done := true, err := true, busyErr := true, cfgErr := true, errcode := .range }
    s.statusWord = 0x0001041E#32 ∧
      (s.hostAccess ⟨0x00C, .word, .write 0xFFFFFFFF⟩).statusWord = 0x00010000#32 := by decide
/-- E1, E2 and E3. -/
theorem test_strategy_write :
    (fresh.hostAccess ⟨0x014, .word, .write 5⟩).statusWord = 0x00000010#32 ∧
    (fresh.hostAccess ⟨0x014, .word, .write 0x0000000C⟩).strategy = .spectralInterpolate ∧
    ((session 5 6).hostAccess ⟨0x014, .word, .write 1⟩).strategy = .silence := by decide
/-- E4 to E7. -/
theorem test_irq :
    (after .nop { latched 0 with doneIE := true }).irq = true ∧ (after .nop { latched 0 with errIE := true }).irq = false ∧
    (after .fill0 { latched 7 with errIE := true, arg0 := 2049 }).irq = true ∧
    ({ fresh with done := true }.hostAccess ⟨0x008, .word, .write 1⟩).irq = true := by decide
/-- The encodings of P1 step 4 and P3 step 1. -/
theorem test_script :
    Stmt.expand (.arrive 10) = [.host ⟨0x018, .word, .write 0x0000000A⟩, .host ⟨0x010, .word, .write 0x00000001⟩, .poll] ∧
    Stmt.expand (.fill0 720 5) = [.host ⟨0x02C, .word, .write 0x000002D0⟩, .host ⟨0x034, .word, .write 0x00000005⟩,
      .host ⟨0x010, .word, .write 0x00000007⟩, .poll] := by decide
/-- `fill_in -100` of P1 step 5: its last write. -/
theorem test_script_fill : (Stmt.expand (.fillIn (-100))).getLast? = some (.host ⟨0x127C, .word, .write 0xFF9CFF9C⟩) := by
  decide +kernel
/-- 30_encoding.md R88: `wait` polls again while BUSY, and ends when BUSY is 0. -/
theorem test_wait :
    step { waiting with inputs := [.poll] } =
      .next { waiting with inputs := [.engine, .poll], response := some (.read32 0x00000001#32) } ∧
    step { fresh with inputs := [.poll] } = .next { fresh with response := some (.read32 0#32) } := ⟨rfl, rfl⟩
/-- R-2: a reset while APPEND waits. -/
theorem test_reset_abandons : (waiting.assertReset false).port = none ∧ (waiting.assertReset false).trace = [] ∧
    (waiting.assertReset true).trace.length = 1 := ⟨rfl, rfl, rfl⟩
/-- 70_reset_and_hazards.md R230: while `rst_n` is 0 a write of CMD starts nothing and a write of SEQNO is lost; released,
the sample memory holds what the release says. -/
theorem test_reset_holds :
    step { resetting with inputs := [.host ⟨0x010, .word, .write 3⟩] } = .next { resetting with response := some .written } ∧
    step { resetting with inputs := [.host ⟨0x018, .word, .write 7⟩] } = .next { resetting with response := some .written } ∧
    (resetting.releaseReset [0x34, 0x12]).sampleAt 0 = 0x1234 ∧ (resetting.releaseReset []).rstAsserted = false :=
  ⟨rfl, rfl, by decide +kernel, rfl⟩

/-! ### Witnesses: for each statement with hypotheses, a state that meets them all -/

/-- DecodeFollowsTheOpcodeMap: a word for each clause, the boundary words 0x8, 0x9, 0xF and 0x10 among them. -/
theorem witness_DecodeFollowsTheOpcodeMap :
    (0x10#32).extractLsb' 4 28 ≠ 0#28 ∧ (0x8#32).extractLsb' 4 28 = 0#28 ∧ (0x8#32).extractLsb' 0 4 = 0x8#4 ∧
    (0x9#32).extractLsb' 4 28 = 0#28 ∧ 0x9#4 ≤ (0x9#32).extractLsb' 0 4 ∧ 0x9#4 ≤ (0xF#32).extractLsb' 0 4 := by decide

theorem witness_StepRunsTheLatchedCommand :
    (latched 1).rstAsserted = false ∧ (latched 1).busy = true ∧ (latched 1).work = none ∧ (latched 1).pending = some 1 ∧ decodeWord 1 = .ok .arrive ∧
    (latched 1).inputs = [] ∧ State.inputs { latched 1 with inputs := [.engine] } = [.engine] := by decide

theorem witness_IllegalWordCompletesWithItsCode :
    let s := latched 9
    s.rstAsserted = false ∧ s.busy = true ∧ s.work = none ∧ s.pending = some 9 ∧ legalWord 9 = false ∧
    s.inputs = [] ∧ State.inputs { s with inputs := [.engine] } = [.engine] := by decide

theorem witness_IdleEngineChangesNothing :
    fresh.busy = false ∧ fresh.inputs = [] ∧ State.inputs { fresh with inputs := [.engine] } = [.engine] := by decide

/-- ArriveRaisesItsErrors: each clause at its boundary. -/
theorem witness_ArriveRaisesItsErrors :
    ((session 5 5).rsState = .tracking ∧ (session 5 5).seqno.toNat ≤ (session 5 5).prevSeqno.toNat) ∧
    (let s := { fresh with sinkPkts := 16 }; s.rsState = .empty ∧ s.sinkCap < s.sinkPkts.toNat + 1) ∧
    (let s := session 0 16; s.rsState = .tracking ∧ s.prevSeqno.toNat < s.seqno.toNat ∧
      s.sinkCap < s.sinkPkts.toNat + (s.seqno.toNat - s.prevSeqno.toNat - 1) + 1) := by decide

/-- ArriveWithoutGapAppendsIn: the first arrival and the next number, with room and willingness for exactly one. -/
theorem witness_ArriveWithoutGapAppendsIn :
    (let s := { fresh with sinkPkts := 15, sinkAccepts := some 1 }
     s.rsState = .empty ∧ s.sinkPkts.toNat + 1 ≤ s.sinkCap ∧ s.willAccept 1) ∧
    (let s := session 5 6; s.rsState = .tracking ∧ s.seqno.toNat = s.prevSeqno.toNat + 1 ∧
      s.sinkPkts.toNat + 1 ≤ s.sinkCap ∧ s.willAccept 1) := by
  refine ⟨⟨rfl, by decide, ?_⟩, rfl, by decide, by decide, ?_⟩
  · intro k hk; cases hk; decide
  · intro k hk; cases hk

theorem witness_ArriveSendsItsStrategysTransactions :
    stream.outOfOrder = false ∧ stream.sinkPkts.toNat + (stream.gap + 1) ≤ stream.sinkCap ∧
    stream.willAccept (arrivalTxns Config.params stream.gap stream.strategy stream.tailRegion stream.prevRegion
      stream.inRegion).length := by
  refine ⟨by decide, by decide, ?_⟩
  intro k hk; cases hk

/-- SilenceAndRepeatFills and SpectralFillsWithBlends: a gap of 2, and each strategy. -/
theorem witness_fills :
    ∀ st : Strategy, (let s := { stream with strategy := st, sinkAccepts := some 3 }
      s.outOfOrder = false ∧ s.strategy = st ∧ 1 ≤ s.gap ∧ s.sinkPkts.toNat + (s.gap + 1) ≤ s.sinkCap ∧
        s.willAccept (s.gap + 1)) := by
  intro st
  refine ⟨rfl, rfl, show 1 ≤ stream.gap by decide, show stream.sinkPkts.toNat + (stream.gap + 1) ≤ stream.sinkCap by decide, ?_⟩
  intro k hk; cases hk; show stream.gap + 1 ≤ 3; decide

/-- SpectralFillsWithBlends, its last clause: two equal packets and a gap of 2. -/
theorem witness_equal_packets : stream.prevRegion = stream.inRegion ∧ 1 < stream.gap ∧ 319 < 320 := by
  have h : ∀ n i, i < n → (fresh.storeSamples 0 (List.replicate n 0)).sampleAt i = 0 := fun n i hi => by
    simp [State.sampleAt_storeSamples, nth, hi]
  have e : ∀ i, i < 720 → stream.sampleAt i = 0 := h 720
  refine ⟨List.ext_getElem (by simp [State.prevRegion, State.inRegion, pkt]) fun k h1 h2 => ?_, by decide, by decide⟩
  have hk : k < 320 := by simpa [State.inRegion, pkt] using h2
  simp only [State.prevRegion, State.inRegion, State.samples_getElem]
  rw [e _ (show 320 + k < 720 by omega), e _ (show 0 + k < 720 by omega)]

/-- EveryStrategyAppendsGapPlusOne and ArriveRetainsTheArrival. -/
theorem witness_arrivals : ∃ t, stream.outOfOrder = false ∧ stream.sinkPkts.toNat + (stream.gap + 1) ≤ stream.sinkCap ∧
    exec .arrive stream = .next t ∧ t.work = none ∧ half ≤ stream.sink.length ∧ stream.strategy ≠ .repeatBoth :=
  ⟨_, by decide, by decide, rfl, rfl, show 80 ≤ (List.replicate 320 (0 : Sample)).length by rw [List.length_replicate]; decide, by decide⟩

theorem witness_AppendSendsIn : (let s := { fresh with sinkPkts := 15, sinkAccepts := some 1 }
    s.sinkPkts.toNat + 1 ≤ s.sinkCap ∧ s.willAccept 1) := by
  refine ⟨by decide, ?_⟩
  intro k hk; cases hk; decide

theorem witness_SmoothSendsTheSmoothedJunction : (let s := { fresh with sinkPkts := 15, sinkAccepts := some 2 }
    s.sinkPkts ≠ 0 ∧ s.sinkPkts.toNat + 1 ≤ s.sinkCap ∧ s.willAccept 2) := by
  refine ⟨by decide, by decide, ?_⟩
  intro k hk; cases hk; decide

theorem witness_SmootherCommandsRaiseTheirErrors :
    (let s := { fresh with sinkPkts := 16 }; s.sinkCap < s.sinkPkts.toNat + 1 ∧ s.sinkPkts ≠ 0) ∧ fresh.sinkPkts = 0 := by
  decide

theorem witness_WithheldAppendWaits : (let s := { fresh with sinkAccepts := some 0 }
    s.sinkPkts.toNat + 1 ≤ s.sinkCap ∧ s.sinkAccepts = some 0) := by decide

/-- XfadeStoresTheCrossfade, CopyStoresTheSource, FillStoresSilence: ranges that just fit, and LPWIN's last start. -/
theorem witness_ranges : (let s := { fresh with arg0 := 2047, arg1 := 2040, arg2 := 1 }
    s.arg0.toNat + s.arg2.toNat ≤ 2048 ∧ s.arg1.toNat + s.arg2.toNat ≤ 2048) ∧
    State.dst { fresh with arg0 := 1888 } + 160 ≤ 2048 := by decide

/-- RangesThatDoNotFitRaiseRange: each clause just past its boundary. -/
theorem witness_RangesThatDoNotFitRaiseRange :
    (let s := { fresh with arg0 := 2048, arg2 := 1 }; 2048 < s.arg0.toNat + s.arg2.toNat) ∧
    (let s := { fresh with arg1 := 2000, arg2 := 49 }; 2048 < s.arg1.toNat + s.arg2.toNat) ∧
    (let s := { fresh with arg0 := 1889 }; 2048 < s.arg0.toNat + 160) := by decide

/-- BufferCommandsStoreOnlyTheirRange: the bytes on either side of each range, and a sample inside it. -/
theorem witness_BufferCommandsStoreOnlyTheirRange : (let s := { fresh with arg0 := 1, arg1 := 0, arg2 := 3 }
    (∃ t, exec .xfade s = .next t) ∧ (∃ t, exec .copy s = .next t ∧ t.errcode ≠ .range) ∧
    (∃ t, exec .fill0 s = .next t ∧ t.errcode ≠ .range) ∧ (∃ t, exec .lpwin s = .next t) ∧
    0x1001 < 0x1000 + 2 * s.arg0.toNat ∧ 0x1000 + 2 * (s.arg0.toNat + 3) ≤ 0x1008 ∧ 2 < s.arg2.toNat) :=
  ⟨⟨_, rfl⟩, ⟨_, rfl, by decide⟩, ⟨_, rfl, by decide⟩, ⟨_, rfl⟩, by decide, by decide, by decide⟩

theorem witness_CrossfadeEndpoints : ([5] : List Sample).length = 1 ∧ ([7, 8] : List Sample).length = 2 := by decide
/-- CrossfadeNeverSaturates: the shortest length, at its last index and at extreme samples. -/
theorem witness_CrossfadeNeverSaturates : 2 ≤ 2 ∧ ([5, -32768] : List Sample).length = 2 ∧
    ([6, 32767] : List Sample).length = 2 ∧ ([5, -32768] : List Sample)[(1 : Nat)]? = some (-32768) ∧
    ([6, 32767] : List Sample)[(1 : Nat)]? = some 32767 ∧ (xf [5, -32768] [6, 32767] 2)[(1 : Nat)]? = some (-32768) := by
  decide
theorem witness_BlendLiesBetweenItsSpectra : 0 < 1 ∧ (blendCoef 1 0 1000 (-2000)).toInt = -500 := by decide

/-- NoCommandWritesItsOperands: every command answers a next state at `stream`. -/
theorem witness_commands_answer : ∀ i : Instr, ∃ t, exec i stream = .next t := by
  intro i; cases i <;> exact ⟨_, rfl⟩

theorem witness_CommandErrorsArePrecise :
    ∃ t, exec .smooth fresh = .next t ∧ fresh.err = false ∧ t.err = true := ⟨_, rfl, rfl, rfl⟩

/-- SinkCommandsMemoryFrame: addresses at the edges of the regions. -/
theorem witness_SinkCommandsMemoryFrame :
    (∃ t, exec .append stream = .next t) ∧ (∃ t, exec .smooth stream = .next t) ∧ (∃ t, exec .arrive stream = .next t) ∧
    (let inTail := fun a : Nat => 0x1500 ≤ a ∧ a < 0x15A0
     let inHead := fun a : Nat => 0x1000 ≤ a ∧ a < 0x10A0
     let inPrev := fun a : Nat => 0x1280 ≤ a ∧ a < 0x1500
     (¬ inTail 0x14FF ∧ ¬ inHead 0x14FF) ∧ (¬ inTail 0x10A0 ∧ ¬ inHead 0x10A0 ∧ ¬ inPrev 0x10A0) ∧
       (¬ inTail 0x15A0 ∧ ¬ inHead 0x15A0 ∧ ¬ inPrev 0x15A0) ∧ ¬ inPrev 0x127F) :=
  ⟨⟨_, rfl⟩, ⟨_, rfl⟩, ⟨_, rfl⟩, by decide⟩

theorem witness_NoCommandChangesEarlierSinkData : (∃ t, exec .smooth stream = .next t) ∧ 80 ≤ stream.sink.length :=
  ⟨⟨_, rfl⟩, show 80 ≤ (List.replicate 320 (0 : Sample)).length by rw [List.length_replicate]; decide⟩

theorem witness_TailMirrorsTheSink :
    (let s := { holding 640 (List.replicate 80 9) with sink := List.replicate 80 9, sinkPkts := 1 }
     s.tailMirrors ∧ ∃ t, exec .append s = .next t) ∧
    (∃ t, exec .append fresh = .next t) ∧ fresh.sinkPkts.toNat + 1 ≤ fresh.sinkCap ∧ fresh.willAccept 1 := by
  refine ⟨⟨⟨by decide, ?_⟩, _, rfl⟩, ⟨_, rfl⟩, by decide, ?_⟩
  · exact (State.samples_storeSamples_same fresh 640 (List.replicate 80 9)).trans rfl
  · intro k hk; cases hk

/-- DelayedCommandHasTheSameResult: a command delayed at its first transaction, and one that waits, goes on by one
transaction and waits again. -/
theorem witness_DelayedCommandHasTheSameResult :
    (∃ t, (latched 3).busy = true ∧ exec .append { latched 3 with sinkAccepts := some 0 } = .next t ∧ t.busy = true) ∧
    (∃ u, (delayed 0).busy = true ∧ (delayed 0).work.isSome = true ∧
      engineTurn { delayed 0 with sinkAccepts := some 1 } = .next u ∧ u.busy = true) ∧
    ((delayed 0).rstAsserted = false ∧ (delayed 0).inputs = []) ∧
    State.inputs { delayed 0 with inputs := [.sinkWilling none] } = [.sinkWilling none] :=
  ⟨⟨_, rfl, rfl, rfl⟩, ⟨_, rfl, rfl, rfl, rfl⟩, ⟨rfl, rfl⟩, rfl⟩

theorem witness_WithheldSinkHangsTheCommand : (let s := { waiting with inputs := [.host rdStatus, .poll, .engine] }
    s.rstAsserted = false ∧ s.busy = true ∧ s.done = false ∧ s.err = false ∧ s.work = some (.append .input :: []) ∧
    (Action.append .input).issues = true ∧ s.sinkAccepts = some 0 ∧ ∀ e ∈ s.inputs, e.endsHang = false) := by
  refine ⟨rfl, rfl, rfl, rfl, rfl, rfl, rfl, by decide⟩

/-- IllegalAccessGetsABusError: the boundary offsets of each kind. -/
theorem witness_IllegalAccessGetsABusError :
    (0x0FFE#13).toNat < 0x1000 ∧ (0x1001#13).toNat % 2 = 1 ∧ (0x1002#13).toNat % 4 ≠ 0 := by decide

/-- BusyBlockRefusesOtherAccesses: an allowed and a refused access, reading and writing. -/
theorem witness_BusyBlockRefusesOtherAccesses :
    waiting.busy = true ∧ (Access.mk 0x028 .word .read).legal = true ∧ (Access.mk 0x02C .word .read).legal = true ∧
    (Access.mk 0x1FFE .half .read).legal = true ∧ (Access.mk 0x00C .word (.write 2)).legal = true ∧
    (Access.mk 0x010 .word (.write 2)).legal = true := by decide

/-- RegisterAccessesReadAndWriteTheRegisters: an access listed while BUSY is 0 and while it is 1; the last register, the
first and the last reserved offset. -/
theorem witness_RegisterAccessesReadAndWriteTheRegisters :
    fresh.rstAsserted = false ∧ waiting.rstAsserted = false ∧ waiting.busy = true ∧
    State.inputs { waiting with inputs := [.host rdStatus] } = [.host rdStatus] ∧
    State.inputs { fresh with inputs := [.poll] } = [.poll] ∧
    fresh.busy = false ∧ (0x034#13).toNat % 4 = 0 ∧ (0x038#13).toNat % 4 = 0 ∧ 0x038 ≤ (0x038#13).toNat ∧
    (0xFFC#13).toNat % 4 = 0 ∧ (0xFFC#13).toNat < 0x1000 := by decide

/-- StatusWordFields: a state with each error code. -/
theorem witness_StatusWordFields : ∀ e : ErrCode, State.errcode { fresh with errcode := e } = e := fun _ => rfl

theorem witness_StrategyWritesAreLockedAndLegal :
    fresh.busy = false ∧ fresh.rsState = .empty ∧ (session 5 6).busy = false ∧ (session 5 6).rsState = .tracking ∧
    5 ≤ ((0x5#32).extractLsb' 0 3).toNat ∧ (0xC#32).extractLsb' 0 3 = 4#3 ∧
    fresh.strategy = .silence := by decide

theorem witness_SampleAccessesReadAndWriteSamples :
    fresh.busy = false ∧ (0x1FFE#13).toNat = 0x1000 + 2 * 2047 ∧ (0x1FFC#13).toNat = 0x1000 + 4 * 1023 := by decide

theorem witness_RefusalsNeverChangeIrq :
    (Access.mk 0x1000 .byte .read).legal = false ∧ waiting.busy = true ∧
    (Access.mk 0x010 .word (.write 2)).allowedBusy = false := by decide

/-- ResetLeavesTheResetValues and ResetAbandonsTheCommandAndHoldsTheBlock: `rst_n` falls while APPEND waits; and good
states with `rst_n` at 0, whatever moves come. -/
theorem witness_reset :
    (State.inputs { waiting with inputs := [.assertReset true] } = [.assertReset true] ∧ waiting.port.isSome = true ∧
      waiting.rstAsserted = false) ∧
    (∀ l : List Event, State.Good { resetting with inputs := l }) ∧ resetting.rstAsserted = true :=
  ⟨⟨rfl, rfl, rfl⟩, fun _ => ⟨Memory.wf_nil, rfl, fun h => (by cases h), rfl, fun _ h => (by cases h), ⟨fun _ => rfl, fun _ => rfl⟩,
    fun h => (by cases h), fun _ => ⟨rfl, rfl⟩, Nat.zero_le _, fun _ h => (by cases h), fun _ => rfl⟩, rfl⟩

/-- EveryStepKeepsGood, GoodMachineNeverStops and TrackingNeverChangesWhileBusy: a good state with a command that
waits. -/
theorem witness_good : waiting.Good ∧ ∃ t, step waiting = .next t ∧ t.busy = true := by
  refine ⟨⟨Memory.wf_nil, rfl, fun _ => rfl, rfl, ?_, (by decide), fun _ => ⟨rfl, rfl⟩, fun _ => ⟨rfl, rfl⟩, (by decide),
    ?_, fun h => (by cases h)⟩, _, rfl, rfl⟩
  · intro lines h; cases h; intro a ha; cases ha
  · intro lines h n g hm; cases h; simp at hm

theorem witness_StrategyIsLockedDuringASession :
    ∃ t, step (session 5 6) = .next t ∧ (session 5 6).rsState = .tracking ∧ t.rsState = .tracking := ⟨_, rfl, rfl, rfl⟩

/-- OnlyArriveStartsAndOnlyClearOrResetEndsTracking: an ARRIVE that starts a session, a CLEAR and a reset that end one,
each a step from a good state. -/
theorem witness_OnlyArriveStartsAndOnlyClearOrResetEndsTracking :
    (latched 1).Good ∧ (∃ t, step (latched 1) = .next t ∧ (latched 1).rsState = .empty ∧ t.rsState = .tracking) ∧
    ((session 5 6).startCommand 2).Good ∧ (∃ t, step ((session 5 6).startCommand 2) = .next t ∧
      ((session 5 6).startCommand 2).rsState = .tracking ∧ t.rsState = .empty) ∧
    State.Good { session 5 6 with inputs := [.assertReset false] } ∧
    (∃ t, step { session 5 6 with inputs := [.assertReset false] } = .next t ∧ t.rsState = .empty) :=
  ⟨⟨Memory.wf_nil, rfl, fun _ => rfl, rfl, fun _ h => (by cases h), (by decide), fun _ => ⟨rfl, rfl⟩,
    fun _ => ⟨rfl, rfl⟩, (by decide), fun _ h => (by cases h), fun h => (by cases h)⟩, ⟨_, rfl, rfl, rfl⟩,
    ⟨Memory.wf_nil, rfl, fun _ => rfl, rfl, fun _ h => (by cases h), (by decide), fun _ => ⟨rfl, rfl⟩,
    fun h => (by cases h), (by decide), fun _ h => (by cases h), fun h => (by cases h)⟩, ⟨_, rfl, rfl, rfl⟩,
    ⟨Memory.wf_nil, rfl, fun h => (by cases h), rfl, fun _ h => (by cases h), (by decide), fun h => (by cases h),
    fun h => (by cases h), (by decide), fun _ h => (by cases h), fun h => (by cases h)⟩, _, rfl, rfl⟩

theorem witness_SinkPortBytesAreLittleEndian :
    (Txn.amend [0x1234#16]).bytes = [0x34#8, 0x12#8] ∧ 0 < ([0x1234#16] : List Sample).length := by decide

/-- BlockDecodesExactlyItsWindow: an address below, the first and the last offset, and an address above. -/
theorem witness_BlockDecodesExactlyItsWindow : (let P := { Config.params with baseIndex := 3 }
    P.base = 0x6000 ∧ 0x5FFF < P.base ∧ P.base + 0x2000 ≤ 0x8000 ∧ 0x1FFF < 0x2000 ∧
    windowOffset P 0x7FFF = some 0x1FFF#13) := by decide

end Sys2Proof.Tests
end

section
/-! SUPPORT. The lines of the sending commands, the data they send, and rules for a run of lines that know this data. -/

namespace Sys2Proof

/-- The opcode of each command is the one its word carries (30_encoding.md R82). -/
theorem encode_eq_of_decodeOp {op : BitVec 4} {i : Instr} (h : decodeOp op = .ok i) : encode i = op.setWidth 32 := by
  unfold decodeOp at h
  split_ifs at h <;> (subst op; cases h; rfl)

/-- Only a command's own word decodes to it (30_encoding.md R83, R84). -/
theorem eq_encode_of_decodeWord {w : Word} {i : Instr} (h : decodeWord w = .ok i) : w = encode i := by
  unfold decodeWord at h
  split_ifs at h with hrsv
  rw [encode_eq_of_decodeOp h]
  have hhigh : (w.extractLsb' 4 28).toNat = 0 := congrArg BitVec.toNat hrsv
  simp only [BitVec.extractLsb'_toNat, Nat.shiftRight_eq_div_pow] at hhigh
  apply BitVec.eq_of_toNat_eq
  simp only [BitVec.toNat_setWidth, BitVec.extractLsb'_toNat, Nat.shiftRight_zero]
  omega

end Sys2Proof

namespace Sys2Proof.Machine

/-! ### Which lines commit an arrival -/

theorem commitsLast_cons {a : Action} {rest : List Action} :
    commitsLast (a :: rest) ↔ (rest = [] ∨ a.commits = false) ∧ commitsLast rest := by
  cases rest with
  | nil => simp [commitsLast]
  | cons b rest => simp [commitsLast]

theorem commitsLast_of_none {lines : List Action} (h : ∀ a ∈ lines, a.commits = false) : commitsLast lines :=
  fun a ha => h a (List.dropLast_subset _ ha)

theorem commitsLast_concat {lines : List Action} (a : Action) (h : ∀ b ∈ lines, b.commits = false) :
    commitsLast (lines ++ [a]) := by
  intro b hb
  rw [List.dropLast_concat] at hb
  exact h b hb

theorem append_commits_none (src : Source) : ∀ a ∈ [Action.append src], a.commits = false := by
  intro a ha
  rw [List.mem_singleton.1 ha]
  rfl

theorem smoothJ_commits_none (p : Buffer) : ∀ a ∈ smoothJ p, a.commits = false := by
  simp [smoothJ, Action.commits]

theorem smoothFiller_commits_none (src : Source) : ∀ a ∈ smoothFiller src, a.commits = false := by
  simp [smoothFiller, smoothJ, Action.commits]

theorem silencePackets_commits_none (n : Nat) : ∀ a ∈ silencePackets n, a.commits = false := by
  intro a ha
  rw [List.eq_of_mem_replicate ha]
  rfl

theorem spectral_commits_none (g : Nat) : ∀ a ∈ spectral g, a.commits = false := by
  intro a ha
  simp only [spectral, List.mem_cons, List.mem_flatMap, List.not_mem_nil, or_false] at ha
  obtain rfl | ⟨k, -, rfl | rfl⟩ := ha <;> rfl

/-- No strategy's lines commit the arrival (43_concealment.md R160). -/
theorem fillGap_commits_none (g : Nat) (st : Strategy) : ∀ a ∈ (fillGap g st).1, a.commits = false := by
  intro a ha
  cases st with
  | silence => exact silencePackets_commits_none g a ha
  | repeatPrevious =>
    obtain rfl | ha := List.mem_cons.1 ha
    · rfl
    · exact silencePackets_commits_none _ a ha
  | repeatNext =>
    obtain ha | ha := List.mem_append.1 ha
    · exact silencePackets_commits_none _ a ha
    · exact append_commits_none .input a ha
  | repeatBoth =>
    simp only [fillGap] at ha
    split at ha
    · simp only [repeatBothOne, List.mem_cons, List.mem_append] at ha
      obtain rfl | ha | ha := ha
      · rfl
      · exact smoothJ_commits_none _ a ha
      · exact smoothJ_commits_none _ a ha
    · simp only [repeatBothMany, List.mem_append, List.mem_flatten] at ha
      obtain ((ha | ⟨l, hl, ha⟩) | ha) | ha := ha
      · exact smoothFiller_commits_none _ a ha
      · rw [List.eq_of_mem_replicate hl] at ha
        exact smoothFiller_commits_none _ a ha
      · exact smoothFiller_commits_none _ a ha
      · exact smoothJ_commits_none _ a ha
  | spectralInterpolate => exact spectral_commits_none g a ha

/-- ARRIVE's lines are lines that commit nothing, and then the one that commits the arrival (44_receiver.md R180). -/
theorem arriveActions_eq (g : Nat) (st : Strategy) (seqno : Word) :
    ∃ sends : List Action, (∀ a ∈ sends, a.commits = false) ∧
      arriveActions g st seqno = sends ++ [.retain seqno (BitVec.ofNat 32 g)] := by
  refine ⟨_, ?_, rfl⟩
  intro a ha
  obtain ha | ha := List.mem_append.1 ha
  · split at ha
    · exact fillGap_commits_none g st a ha
    · cases ha
  · exact append_commits_none .input a (List.mem_ite_nil_left.1 ha).2

theorem arriveActions_commitsLast (g : Nat) (st : Strategy) (seqno : Word) :
    commitsLast (arriveActions g st seqno) := by
  obtain ⟨sends, hsends, e⟩ := arriveActions_eq g st seqno
  rw [e]
  exact commitsLast_concat _ hsends

/-- The one arrival that ARRIVE's lines commit is that of its sequence number. -/
theorem seqno_of_retain_mem_arriveActions {g : Nat} {st : Strategy} {seqno n gap : Word}
    (h : .retain n gap ∈ arriveActions g st seqno) : n = seqno := by
  obtain ⟨sends, hsends, e⟩ := arriveActions_eq g st seqno
  rw [e] at h
  obtain h | h := List.mem_append.1 h
  · cases hsends _ h
  · cases List.mem_singleton.1 h; rfl

/-! ### What a line sends -/

/-- A transaction carries the number of samples its kind has (20_memory.md R64, R65). -/
def Txn.sized : Txn → Prop
  | .append p => p.length = 320
  | .amend a => a.length = 80

theorem Action.txn_sized {P : Params} {s : State} {a : Action} {t : Txn} (h : a.txn P s = some t) : t.sized := by
  cases a with
  | append src => cases h; exact State.packet_length P s src
  | amend => cases h; simp [Txn.sized, half]
  | _ => cases h

theorem State.acceptance_transact {s s' : State} (h : s.acceptance = some s') (t : Txn) :
    s'.transact t = s.sent t := by
  obtain ⟨-, rfl⟩ := State.acceptance_some h
  rfl

/-- A property that every transaction of the right size, each of these lines, completion and waiting keep holds at the
end of their run: `runActions_keeps` for a property that depends on what is sent and on which lines run. -/
theorem runActions_keeps_of_sized {Q : State → Prop} {P : Params} {lines : List Action}
    (sent : ∀ (u : State) (t : Txn), t.sized → Q u → Q (u.sent t))
    (line : ∀ a ∈ lines, ∀ u : State, Q u → Q (a.perform P u))
    (complete : ∀ u : State, Q u → Q u.complete)
    (waits : ∀ (u : State) t l, Q u → Q (u.wait t l)) {s : State} (h : Q s) : Q (runActions P lines s) := by
  induction lines generalizing s with
  | nil => exact complete s h
  | cons a rest ih =>
    have ih := @ih fun b hb => line b (List.mem_cons_of_mem a hb)
    simp only [runActions]
    split
    · exact ih (line a List.mem_cons_self s h)
    · next t ht =>
      split
      · next s' hs =>
        rw [State.acceptance_transact hs]
        exact ih (sent s t (Action.txn_sized ht) h)
      · exact waits s t _ h

end Sys2Proof.Machine
end

section
/-! SUPPORT. A running command keeps the machine sound: what holds at each line of a run, and that the run ends in a
good state (60_exceptions.md R205, R206). -/

namespace Sys2Proof.Machine

/-! ### The memory stays canonical -/

theorem State.sent_wf {s : State} {t : Txn} (ht : t.sized) (h : s.sram.wf) : (s.sent t).sram.wf := by
  cases t with
  | append p =>
    have hp : p.length = 320 := ht
    exact State.storeSamples_wf (s := s) (start := tailBase) h (by simp [hp, tailBase, sramSamples])
  | amend a =>
    have ha : a.length = 80 := ht
    exact State.storeSamples_wf (s := s) (start := tailBase) h (by simp [ha, tailBase, sramSamples])

theorem Action.perform_wf (P : Params) (a : Action) {s : State} (h : s.sram.wf) : (a.perform P s).sram.wf := by
  cases a with
  | splice p =>
    cases p with
    | input => exact State.storeSamples_wf h (by simp [half, sramSamples])
    | scratch => exact h
  | retain n g =>
    exact State.storeSamples_wf (s := s) (start := prevBase) h (by simp [State.inRegion, prevBase, pkt, sramSamples])
  | _ => exact h

/-! ### The state at each line of a run -/

/-- What holds of the machine while the engine has these lines still to do. -/
structure State.Runs (s : State) (lines : List Action) : Prop where
  released : s.rstAsserted = false
  memory : s.sram.wf
  busy : s.busy = true
  latched : s.pending.isSome = true
  done : s.done = false
  err : s.err = false
  errcode : s.errcode = .none
  session : s.rsState = .empty → s.prevSeqno = 0 ∧ s.gaplen = 0
  capacity : s.sinkPkts.toNat + packetsIn lines ≤ s.sinkCap
  uncommitted : commitsLast lines
  arrival : ∀ n g, Action.retain n g ∈ lines → s.pending = some (encode .arrive) ∧ n = s.seqno

/-- A line that sends nothing appends nothing. -/
theorem Action.appends_of_txn_none {P : Params} {s : State} {a : Action} (h : a.txn P s = none) :
    a.appends = false := by
  cases a with
  | append src => cases h
  | _ => rfl

/-- What no line writes: BUSY, DONE, the latched word and SINK_PKTS. -/
theorem Action.perform_keeps (P : Params) (a : Action) (s : State) :
    (a.perform P s).busy = s.busy ∧ (a.perform P s).done = s.done ∧ (a.perform P s).pending = s.pending ∧
      (a.perform P s).sinkPkts = s.sinkPkts := by
  cases a with
  | splice p => cases p <;> exact ⟨rfl, rfl, rfl, rfl⟩
  | _ => exact ⟨rfl, rfl, rfl, rfl⟩

/-- A line that commits no arrival leaves the session alone. -/
theorem Action.perform_session (P : Params) {a : Action} (s : State) (h : a.commits = false) :
    (a.perform P s).rsState = s.rsState ∧ (a.perform P s).prevSeqno = s.prevSeqno ∧
      (a.perform P s).gaplen = s.gaplen := by
  cases a with
  | splice p => cases p <;> exact ⟨rfl, rfl, rfl⟩
  | retain n g => cases h
  | _ => exact ⟨rfl, rfl, rfl⟩

/-- The line that commits an arrival starts or continues a session. -/
theorem Action.perform_tracking (P : Params) {a : Action} (s : State) (h : a.commits = true) :
    ∃ n g, a = .retain n g ∧ (a.perform P s).rsState = .tracking ∧ (a.perform P s).prevSeqno = n ∧
      (a.perform P s).gaplen = g := by
  cases a with
  | retain n g => exact ⟨n, g, rfl, rfl, rfl, rfl⟩
  | _ => cases h

theorem State.Runs.line {P : Params} {s : State} {a : Action} {rest : List Action} (h : s.Runs (a :: rest))
    (ha : a.txn P s = none) : (a.perform P s).Runs rest := by
  have same := a.perform_sameHostSide P s
  obtain ⟨hbusy, hdone, hpending, hpkts⟩ := a.perform_keeps P s
  refine
    { released := same.rstAsserted.trans h.released
      memory := a.perform_wf P h.memory
      busy := hbusy.trans h.busy
      latched := hpending ▸ h.latched
      done := hdone.trans h.done
      err := same.err.trans h.err
      errcode := same.errcode.trans h.errcode
      session := ?_
      capacity := ?_
      uncommitted := (commitsLast_cons.1 h.uncommitted).2
      arrival := ?_ }
  · cases hc : a.commits with
    | false =>
      obtain ⟨hrs, hprev, hgap⟩ := Action.perform_session P s hc
      rw [hrs, hprev, hgap]
      exact h.session
    | true =>
      obtain ⟨n, g, -, hrs, -, -⟩ := Action.perform_tracking P s hc
      intro hempty
      rw [hrs] at hempty
      cases hempty
  · have hcap := h.capacity
    rw [packetsIn_cons, Action.appends_of_txn_none ha] at hcap
    simpa [hpkts, State.sinkCap, same.sinkCapLessOne] using hcap
  · intro n g hm
    rw [hpending, same.seqno]
    exact h.arrival n g (List.mem_cons_of_mem a hm)

/-- SINK_PKTS counts an append, and cannot wrap below the capacity (20_memory.md R64; 10_state.md R37). -/
theorem State.sent_sinkPkts {P : Params} {s : State} {a : Action} {t : Txn} (ha : a.txn P s = some t)
    (hcap : s.sinkPkts.toNat + 1 ≤ s.sinkCap ∨ a.appends = false) :
    (s.sent t).sinkPkts.toNat = s.sinkPkts.toNat + if a.appends then 1 else 0 := by
  cases a with
  | append src =>
    cases ha
    have hroom : s.sinkPkts.toNat + 1 ≤ s.sinkCap := by simpa [Action.appends] using hcap
    have hlt := s.sinkCap_lt
    show (s.sinkPkts + 1).toNat = _
    simp [Action.appends]
    omega
  | amend => cases ha; rfl
  | _ => cases ha

theorem State.sent_sameHostSide (s : State) (t : Txn) : s.SameHostSide (s.sent t) := by
  cases t <;> constructor <;> rfl

/-- What no transaction writes: BUSY, DONE, the latched word and the session. -/
theorem State.sent_keeps (s : State) (t : Txn) :
    (s.sent t).busy = s.busy ∧ (s.sent t).done = s.done ∧ (s.sent t).pending = s.pending ∧
      (s.sent t).rsState = s.rsState ∧ (s.sent t).prevSeqno = s.prevSeqno ∧ (s.sent t).gaplen = s.gaplen := by
  cases t <;> exact ⟨rfl, rfl, rfl, rfl, rfl, rfl⟩

theorem State.Runs.sent {P : Params} {s : State} {a : Action} {rest : List Action} {t : Txn} (h : s.Runs (a :: rest))
    (ha : a.txn P s = some t) : (s.sent t).Runs rest := by
  have same := s.sent_sameHostSide t
  obtain ⟨hbusy, hdone, hpending, hrs, hprev, hgap⟩ := s.sent_keeps t
  refine
    { released := same.rstAsserted.trans h.released
      memory := State.sent_wf (Action.txn_sized ha) h.memory
      busy := hbusy.trans h.busy
      latched := hpending ▸ h.latched
      done := hdone.trans h.done
      err := same.err.trans h.err
      errcode := same.errcode.trans h.errcode
      session := by rw [hrs, hprev, hgap]; exact h.session
      capacity := ?_
      uncommitted := (commitsLast_cons.1 h.uncommitted).2
      arrival := ?_ }
  · have hcap := h.capacity
    rw [packetsIn_cons] at hcap
    have hroom : s.sinkPkts.toNat + 1 ≤ s.sinkCap ∨ a.appends = false := by
      cases hap : a.appends with
      | false => exact .inr rfl
      | true => rw [hap, if_pos rfl] at hcap; exact .inl (by omega)
    have hpkts := State.sent_sinkPkts ha hroom
    rw [hpkts, State.sinkCap, same.sinkCapLessOne]
    rw [State.sinkCap] at hcap
    omega
  · intro n g hm
    rw [hpending, same.seqno]
    exact h.arrival n g (List.mem_cons_of_mem a hm)

/-- While `rst_n` is 1 no register is held at its reset value. -/
theorem State.held_of_released {s : State} (released : s.rstAsserted = false) :
    s.rstAsserted = true → s = s.underReset :=
  fun asserted => absurd (released.symm.trans asserted) (by decide)

/-- A command that stands at no line any more, and has not failed or has failed with a code, completes in a good state
(60_exceptions.md R206). -/
theorem State.complete_good {s : State} (released : s.rstAsserted = false) (memory : s.sram.wf)
    (code : s.err = false ↔ s.errcode = .none) (session : s.rsState = .empty → s.prevSeqno = 0 ∧ s.gaplen = 0)
    (capacity : s.sinkPkts.toNat ≤ s.sinkCap) : s.complete.Good where
  memory := memory
  latched := rfl
  waiting h := by cases h
  issued := rfl
  uncommitted _ h := by cases h
  code := code
  fresh h := by cases h
  session := session
  capacity := capacity
  arrival _ h := by cases h
  held := State.held_of_released released

theorem State.Runs.complete_good {s : State} (h : s.Runs []) : s.complete.Good :=
  State.complete_good h.released h.memory (by simp [h.err, h.errcode]) h.session h.capacity

/-- A command that waits for the sink is in a good state (20_memory.md R67). -/
theorem State.Runs.wait_good {s : State} {lines : List Action} (h : s.Runs lines) (t : Txn) :
    (s.wait t lines).Good where
  memory := h.memory
  latched := h.busy.trans h.latched.symm
  waiting _ := h.busy
  issued := rfl
  uncommitted _ hw := by cases hw; exact h.uncommitted
  code := by simp [h.err, h.errcode]
  fresh _ := ⟨h.done, h.err⟩
  session := h.session
  capacity := h.capacity
  arrival _ hw := by cases hw; exact h.arrival
  held := State.held_of_released h.released

/-- A run of lines ends in a good state, completed or waiting. -/
theorem runActions_good (P : Params) {lines : List Action} {s : State} (h : s.Runs lines) :
    (runActions P lines s).Good := by
  induction lines generalizing s with
  | nil => exact h.complete_good
  | cons a rest ih =>
    simp only [runActions]
    split
    · next ha => exact ih (h.line ha)
    · next t ha =>
      split
      · next s' hs =>
        rw [State.acceptance_transact hs]
        exact ih (h.sent ha)
      · exact h.wait_good t

end Sys2Proof.Machine
end

section
/-! SUPPORT. Good states under each kind of move: the engine's turn, the fall and the rise of `rst_n`, a host access and
the moves of the sink. -/

namespace Sys2Proof.Machine

/-! ### The engine's turn -/

/-- A good state in which a command has been latched and has not begun. -/
theorem State.Good.runs_begun {s : State} (h : s.Good) (released : s.rstAsserted = false) (busy : s.busy = true)
    {lines : List Action} (capacity : s.sinkPkts.toNat + packetsIn lines ≤ s.sinkCap)
    (uncommitted : commitsLast lines)
    (arrival : ∀ n g, Action.retain n g ∈ lines → s.pending = some (encode .arrive) ∧ n = s.seqno) :
    s.Runs lines where
  released := released
  memory := h.memory
  busy := busy
  latched := h.latched.symm.trans busy
  done := (h.fresh busy).1
  err := (h.fresh busy).2
  errcode := h.code.1 (h.fresh busy).2
  session := h.session
  capacity := capacity
  uncommitted := uncommitted
  arrival := arrival

/-- A good state in which these lines wait for the sink. -/
theorem State.Good.runs_waiting {s : State} (h : s.Good) (released : s.rstAsserted = false) {lines : List Action}
    (hw : s.work = some lines) : s.Runs lines :=
  h.runs_begun released (h.waiting (by simp [hw])) (by simpa [State.packetsToCome, hw] using h.capacity)
    (h.uncommitted lines hw) (h.arrival lines hw)

/-- Nothing is counted but what has been appended once no line waits. -/
theorem State.Good.sinkPkts_le {s : State} (h : s.Good) : s.sinkPkts.toNat ≤ s.sinkCap :=
  le_trans (Nat.le_add_right _ _) h.capacity

theorem State.Good.raiseError_good {s : State} (h : s.Good) (released : s.rstAsserted = false) {code : ErrCode}
    (hcode : code ≠ .none) : (s.raiseError code).Good :=
  State.complete_good (s := { s with err := true, errcode := code }) released h.memory (by simp [hcode]) h.session
    h.sinkPkts_le

/-- Samples stored by a buffer or window command that completes. -/
theorem State.Good.storeSamples_complete_good {s : State} (h : s.Good) (released : s.rstAsserted = false) {start : Nat}
    {xs : List Sample} (hfits : start + xs.length ≤ 2048) : (s.storeSamples start xs).complete.Good :=
  State.complete_good (s := s.storeSamples start xs) released (State.storeSamples_wf h.memory hfits) h.code h.session
    h.sinkPkts_le

/-- The lines that a command of a good state begins with are sound to run. -/
theorem State.Good.runs_of_sending {s : State} (h : s.Good) (released : s.rstAsserted = false) (busy : s.busy = true)
    {i : Instr} {lines : List Action} (hp : s.pending = some (encode i))
    (capacity : s.sinkPkts.toNat + packetsIn lines ≤ s.sinkCap)
    (hlines : (i = .append ∧ lines = [.append .input]) ∨ (i = .smooth ∧ lines = smoothJ .input) ∨
      (i = .arrive ∧ s.outOfOrder = false ∧ lines = arriveActions s.gap s.strategy s.seqno)) : s.Runs lines := by
  have plain : (∀ a ∈ lines, a.commits = false) → s.Runs lines := fun hc =>
    h.runs_begun released busy capacity (commitsLast_of_none hc) fun n g hm => by cases hc _ hm
  obtain ⟨-, rfl⟩ | ⟨-, rfl⟩ | ⟨rfl, -, rfl⟩ := hlines
  · exact plain (append_commits_none .input)
  · exact plain (smoothJ_commits_none .input)
  · exact h.runs_begun released busy capacity (arriveActions_commitsLast _ _ _) fun n g hm =>
      ⟨hp, seqno_of_retain_mem_arriveActions hm⟩

/-- Every command of a good state answers a good state. -/
theorem exec_good {i : Instr} {s t : State} (h : s.Good) (released : s.rstAsserted = false) (busy : s.busy = true)
    (hp : s.pending = some (encode i)) (e : exec i s = .next t) : t.Good := by
  obtain ⟨-, e'⟩ | ⟨-, e'⟩ | ⟨start, xs, hfits, -, e'⟩ | ⟨w, hfits, -, e'⟩ | ⟨code, hcode, -, e'⟩ |
    ⟨lines, hcap, hlines, e'⟩ := exec_cases i s <;> (rw [e'] at e; cases e)
  · exact State.complete_good released h.memory h.code h.session h.sinkPkts_le
  · exact State.complete_good (s := { s with rsState := .empty, prevSeqno := 0, gaplen := 0, sinkPkts := 0 }) released
      h.memory h.code (fun _ => ⟨rfl, rfl⟩) (Nat.zero_le _)
  · exact h.storeSamples_complete_good released hfits
  · have memory := State.storeSamples_wf (s := s.lowpass Config.params w) (start := s.dst)
      (xs := (lp Config.params w).toList) h.memory (by rw [Vector.length_toList]; exact hfits)
    exact State.complete_good (s := (s.lowpass Config.params w).storeSamples s.dst (lp Config.params w).toList) released
      memory h.code h.session h.sinkPkts_le
  · exact h.raiseError_good released hcode
  · exact runActions_good _ (h.runs_of_sending released busy hp hcap hlines)

/-- The engine's turn keeps a good state good. -/
theorem engineTurn_good {s t : State} (h : s.Good) (released : s.rstAsserted = false) (e : engineTurn s = .next t) :
    t.Good := by
  obtain ⟨-, e'⟩ | ⟨lines, -, hw, e'⟩ | ⟨w, i, hb, -, hp, hd, e'⟩ | ⟨w, x, -, -, -, -, e'⟩ | ⟨-, -, -, e'⟩ :=
    engineTurn_cases s <;> rw [e'] at e
  · cases e; exact h
  · cases e; exact runActions_good _ (h.runs_waiting released hw)
  · exact exec_good h released hb (by rw [hp, eq_encode_of_decodeWord hd]) e
  · cases e; exact h.raiseError_good released (by decide)
  · cases e

theorem engineMoves_good {s t : State} (h : s.Good) (e : engineMoves s = .next t) : t.Good := by
  cases hr : s.rstAsserted with
  | false => rw [engineMoves_released hr] at e; exact engineTurn_good h hr e
  | true => rw [engineMoves_asserted hr] at e; cases e; exact h

/-! ### Reset -/

/-- A state whose registers have their reset values is good, at either level of `rst_n` (70_reset_and_hazards.md R230). -/
theorem State.underReset_good (s : State) (level : Bool) {m : Memory} (hm : m.wf) (r : Option Response) (n : Nat) :
    State.Good { s.underReset with rstAsserted := level, sram := m, response := r, resets := n } where
  memory := hm
  latched := rfl
  waiting h := by cases h
  issued := rfl
  uncommitted _ h := by cases h
  code := ⟨fun _ => rfl, fun _ => rfl⟩
  fresh h := by cases h
  session _ := ⟨rfl, rfl⟩
  capacity := Nat.zero_le _
  arrival _ h := by cases h
  held h := by subst h; rfl

theorem State.Good.assertReset_good {s : State} (h : s.Good) (kept : Bool) : (s.assertReset kept).Good := by
  cases hr : s.rstAsserted with
  | true => rw [State.assertReset_asserted hr]; exact h
  | false =>
    obtain ⟨-, e⟩ | ⟨x, -, -, e⟩ := State.assertReset_cases hr kept <;> rw [e]
    · exact s.underReset_good true Memory.wf_nil _ _
    · exact (s.sinkTakes x).underReset_good true Memory.wf_nil _ _

theorem State.Good.releaseReset_good {s : State} (h : s.Good) (bytes : List Byte) : (s.releaseReset bytes).Good := by
  cases hr : s.rstAsserted with
  | false => rw [State.releaseReset_released hr]; exact h
  | true =>
    rw [State.releaseReset_asserted hr]
    refine s.underReset_good false (Memory.wf_write Memory.wf_nil (by simp) ?_) _ _
    have := List.length_take_le 4096 bytes
    simp only [sramBase, sramEnd]
    omega

/-! ### The host port -/

theorem State.writeStrategy_cases (s : State) (v : Word) :
    (∃ st, s.rsState = .empty ∧ Strategy.ofCode (v.extractLsb' 0 3) = some st ∧
      s.writeStrategy v = { s with strategy := st }) ∨
    ((s.rsState = .tracking ∨ Strategy.ofCode (v.extractLsb' 0 3) = none) ∧
      s.writeStrategy v = { s with cfgErr := true }) := by
  unfold State.writeStrategy
  cases s.rsState with
  | tracking => exact .inr ⟨.inl rfl, rfl⟩
  | empty =>
    cases h : Strategy.ofCode (v.extractLsb' 0 3) with
    | some st => exact .inl ⟨st, rfl, rfl, rfl⟩
    | none => exact .inr ⟨.inr rfl, rfl⟩

/-- No line waits while BUSY is 0. -/
theorem State.Good.work_none {s : State} (h : s.Good) (idle : s.busy = false) : s.work = none := by
  cases hw : s.work with
  | none => rfl
  | some lines =>
    have := h.waiting (by rw [hw]; rfl)
    rw [idle] at this
    cases this

/-- A command starts in a good state (60_exceptions.md R205). -/
theorem State.Good.startCommand_good {s : State} (h : s.Good) (released : s.rstAsserted = false) (w : Word) :
    (s.startCommand w).Good where
  memory := h.memory
  latched := rfl
  waiting _ := rfl
  issued := rfl
  uncommitted _ hw := by cases hw
  code := ⟨fun _ => rfl, fun _ => rfl⟩
  fresh _ := ⟨rfl, rfl⟩
  session := h.session
  capacity := h.sinkPkts_le
  arrival _ hw := by cases hw
  held := State.held_of_released released

theorem State.Good.writeStatus_good {s : State} (h : s.Good) (released : s.rstAsserted = false) (v : Word) :
    (s.writeStatus v).Good :=
  { h with
    code := by
      show (s.err && !v.getLsbD 2) = false ↔ (if v.getLsbD 2 then ErrCode.none else s.errcode) = .none
      cases v.getLsbD 2 with
      | false => simpa using h.code
      | true => simp
    fresh := fun hb => by
      obtain ⟨hdone, herr⟩ := h.fresh hb
      simp [State.writeStatus, hdone, herr]
    held := State.held_of_released released }

/-- A register write that the block does not refuse keeps a good state good. -/
theorem State.Good.writeReg_good {s : State} (h : s.Good) (released : s.rstAsserted = false) {r : Reg}
    (allowed : s.busy = false ∨ r.writableBusy = true) (v : Word) : (s.writeReg v r).Good := by
  cases r with
  | ctrl => exact { h with held := State.held_of_released released }
  | status => exact h.writeStatus_good released v
  | cmd => exact h.startCommand_good released v
  | strategy =>
    show (s.writeStrategy v).Good
    obtain ⟨st, -, -, e⟩ | ⟨-, e⟩ := s.writeStrategy_cases v <;> rw [e]
    · exact { h with held := State.held_of_released released }
    · exact { h with held := State.held_of_released released }
  | seqno =>
    obtain idle | hw := allowed
    · exact { h with
        arrival := fun lines hw => by
          have hw' : s.work = some lines := hw
          rw [h.work_none idle] at hw'
          cases hw'
        held := State.held_of_released released }
    · cases hw
  | arg0 => exact { h with held := State.held_of_released released }
  | arg1 => exact { h with held := State.held_of_released released }
  | arg2 => exact { h with held := State.held_of_released released }
  | _ => exact h

/-- Bytes stored by a legal access lie inside the sample space (20_memory.md R54). -/
theorem State.perform_sram_wf {s : State} {a : Access} (h : s.sram.wf) (legal : a.legal = true)
    (hs : 4096 ≤ a.offset.toNat) : (s.perform a).1.sram.wf := by
  have hlt := a.offset.isLt
  rw [State.perform_sram s hs]
  cases hd : a.direction with
  | read => cases a.width <;> exact h
  | write v =>
    obtain ⟨hw, -, heven⟩ | ⟨hw, haligned⟩ := Access.legal_iff.1 legal <;> rw [hw]
    · exact Memory.wf_write h hs (by simp only [lowBytes, List.length_cons, List.length_nil, sramEnd]; omega)
    · exact Memory.wf_write h hs (by simp only [allBytes, List.length_cons, List.length_nil, sramEnd]; omega)

/-- What an access that is performed comes to: a store inside the sample space or a read, which change the sample memory
at most, nothing, or the write of a register. -/
theorem State.perform_cases (s : State) (a : Access) :
    (4096 ≤ a.offset.toNat ∧ (s.perform a).1 = { s with sram := (s.perform a).1.sram }) ∨
    (a.offset.toNat < 4096 ∧ (s.perform a).1 = s) ∨
    (∃ r v, a.offset.toNat = r.offset ∧ a.direction = .write v ∧ (s.perform a).1 = s.writeReg v r) := by
  by_cases hs : 4096 ≤ a.offset.toNat
  · refine .inl ⟨hs, ?_⟩
    rw [State.perform_sram s hs]
    cases a.direction <;> cases a.width <;> rfl
  · have hs : a.offset.toNat < 4096 := by omega
    cases hd : a.direction with
    | read => exact .inr (.inl ⟨hs, State.perform_read s hd⟩)
    | write v =>
      cases hr : regAt a.offset.toNat with
      | none => exact .inr (.inl ⟨hs, by rw [State.perform_reserved s hs hr]⟩)
      | some r =>
        have ho := (regAt_eq_some.1 hr).symm
        exact .inr (.inr ⟨r, v, ho, rfl, by rw [State.perform_reg_write s ho hd]⟩)

theorem State.writeReg_sram (s : State) (v : Word) (r : Reg) : (s.writeReg v r).sram = s.sram := by
  cases r with
  | strategy =>
    show (s.writeStrategy v).sram = s.sram
    obtain ⟨st, -, -, e⟩ | ⟨-, e⟩ := s.writeStrategy_cases v <;> rw [e]
  | _ => rfl

/-- A host access keeps the memory canonical. -/
theorem State.hostAccess_wf {s : State} (h : s.sram.wf) (a : Access) : (s.hostAccess a).sram.wf := by
  obtain ⟨-, e⟩ | ⟨-, -, -, e⟩ | ⟨legal, -, e⟩ := s.hostAccess_cases a <;> rw [e]
  · exact h
  · exact h
  · show (s.perform a).1.sram.wf
    obtain ⟨hs, -⟩ | ⟨-, e⟩ | ⟨r, v, -, -, e⟩ := s.perform_cases a
    · exact State.perform_sram_wf h legal hs
    · rw [e]; exact h
    · rw [e, State.writeReg_sram]; exact h

/-- A register access that is not refused names a register that may be written while BUSY. -/
theorem Access.writableBusy_of_allowed {a : Access} {r : Reg} {v : Word} (ho : a.offset.toNat = r.offset)
    (hd : a.direction = .write v) (h : a.allowedBusy = true) : r.writableBusy = true := by
  unfold Access.allowedBusy at h
  rw [regAt_eq_some.2 ho.symm, hd] at h
  exact h

/-- A host access keeps a good state good while `rst_n` is 1. -/
theorem State.Good.hostAccess_good {s : State} (h : s.Good) (released : s.rstAsserted = false) (a : Access) :
    (s.hostAccess a).Good := by
  have level : (s.hostAccess a).rstAsserted = s.rstAsserted := (s.hostAccess_keeps a).1
  have memory := State.hostAccess_wf h.memory a
  obtain ⟨-, e⟩ | ⟨-, -, -, e⟩ | ⟨-, allowed, e⟩ := s.hostAccess_cases a <;> rw [e] at level memory ⊢
  · exact { h with held := State.held_of_released (level.trans released) }
  · exact { h with held := State.held_of_released (level.trans released) }
  · have performed : (s.perform a).1.Good := by
      obtain ⟨-, e'⟩ | ⟨-, e'⟩ | ⟨r, v, ho, hd, e'⟩ := s.perform_cases a
      · rw [e']; exact { h with memory := memory, held := State.held_of_released released }
      · rw [e']; exact h
      · rw [e']
        exact h.writeReg_good released (allowed.imp_right (Access.writableBusy_of_allowed ho hd)) v
    exact { performed with held := State.held_of_released (level.trans released) }

/-- What is left of a host access, at either level of `rst_n`, is a good state (70_reset_and_hazards.md R230). -/
theorem State.Good.hostAccess_held_good {s : State} (h : s.Good) (a : Access) : (s.hostAccess a).held.Good := by
  cases hr : s.rstAsserted with
  | false =>
    rw [State.held_released ((s.hostAccess_keeps a).1.trans hr)]
    exact h.hostAccess_good hr a
  | true =>
    rw [State.hostAccess_held hr]
    exact s.underReset_good true (State.hostAccess_wf h.memory a) _ s.resets

/-! ### Every move -/

/-- A good state does not depend on the moves to come, on the sink, or on its willingness. -/
theorem State.Good.with_world {s : State} (h : s.Good) (events : List Event) (content : List Sample)
    (limit : Option Nat) : State.Good { s with inputs := events, sink := content, sinkAccepts := limit } :=
  { h with
    held := fun ha => congrArg
      (fun u : State => { u with inputs := events, sink := content, sinkAccepts := limit }) (h.held ha) }

theorem takeEvent_good {e : Event} {s t : State} (h : s.Good) (ht : takeEvent e s = .next t) : t.Good := by
  cases e with
  | engine => exact engineMoves_good h ht
  | host a => cases ht; exact h.hostAccess_held_good a
  | poll =>
    cases ht
    have polled := h.hostAccess_held_good rdStatus
    split
    · exact polled.with_world _ _ _
    · exact polled
  | sinkWilling limit => cases ht; exact h.with_world _ _ limit
  | newSink content => cases ht; exact h.with_world _ content _
  | assertReset kept => cases ht; exact h.assertReset_good kept
  | releaseReset bytes => cases ht; exact h.releaseReset_good bytes

/-- Settles O54: the engine's turn by `runActions_good`, every other move by its own lemma above. -/
theorem everyStepKeepsGood : Obligations.EveryStepKeepsGood := by
  intro s t h e
  cases hi : s.inputs with
  | nil =>
    rw [step_unlisted hi] at e
    exact engineMoves_good h e
  | cons move rest =>
    rw [step_listed hi] at e
    exact takeEvent_good (h.with_world rest s.sink s.sinkAccepts) e

end Sys2Proof.Machine
end

section
/-! SUPPORT. What the commands leave unchanged: the operand registers, the bytes outside the regions they write, and the
equality of TAIL with the end of the sink (10_state.md R20, R41 to R43). -/

namespace Sys2Proof.Machine

/-! ### Operands -/

/-- A command leaves the host's side as it is, but for ERR and ERRCODE where it fails. -/
theorem exec_sameHostSide {i : Instr} {s t : State} (e : exec i s = .next t) :
    s.SameHostSide t ∨ ∃ code, t = s.raiseError code := by
  obtain ⟨-, e'⟩ | ⟨-, e'⟩ | ⟨start, xs, -, -, e'⟩ | ⟨w, -, -, e'⟩ | ⟨code, -, -, e'⟩ | ⟨lines, -, -, e'⟩ :=
    exec_cases i s <;> (rw [e'] at e; cases e)
  · exact .inl s.complete_sameHostSide
  · exact .inl (by constructor <;> rfl)
  · exact .inl (by constructor <;> rfl)
  · exact .inl (by constructor <;> rfl)
  · exact .inr ⟨code, rfl⟩
  · exact .inl (runActions_sameHostSide _ lines s)

/-- Settles O33: a failing command differs from `SameHostSide` in ERR and ERRCODE only, of which it does not speak. -/
theorem noCommandWritesItsOperands : Obligations.NoCommandWritesItsOperands := by
  intro i s t e
  obtain h | ⟨code, rfl⟩ := exec_sameHostSide e
  · exact ⟨h.seqno, h.strategy, h.arg0, h.arg1, h.arg2, h.doneIE, h.errIE, h.busyErr, h.cfgErr,
      by rw [State.sinkCap, h.sinkCapLessOne]; rfl, h.inputs, h.response, h.resets, h.rstAsserted⟩
  · exact ⟨rfl, rfl, rfl, rfl, rfl, rfl, rfl, rfl, rfl, rfl, rfl, rfl, rfl, rfl⟩

/-! ### Bytes outside the regions -/

/-- The window offset `a` is that of a byte of `SRAM[start .. start+n)`. -/
def inSamples (start n a : Nat) : Prop := sampleOffset start ≤ a ∧ a < sampleOffset (start + n)

theorem State.byteAt_storeSamples_of_not_inSamples (s : State) {start n a : Nat} {xs : List Sample} (hn : xs.length = n)
    (h : ¬ inSamples start n a) : (s.storeSamples start xs).byteAt a = s.byteAt a := by
  subst hn
  refine State.byteAt_storeSamples_outside s ?_
  unfold inSamples at h
  omega

/-- A transaction changes no byte outside TAIL (20_memory.md R64, R65). -/
theorem State.sent_byteAt (s : State) {t : Txn} (ht : t.sized) {a : Nat} (h : ¬ inSamples tailBase half a) :
    (s.sent t).byteAt a = s.byteAt a := by
  cases t with
  | append p =>
    have hp : (p.drop 240).length = half := by rw [List.length_drop, show p.length = 320 from ht]
    exact (State.byteAt_storeSamples_of_not_inSamples _ hp h).trans rfl
  | amend p => exact (State.byteAt_storeSamples_of_not_inSamples _ ht h).trans rfl

/-- A line changes no byte but the splice of IN those of IN[0..80), and the line that retains an arrival PREV's. -/
theorem Action.perform_byteAt (P : Params) {a : Action} (s : State) {x : Nat}
    (splice : a = .splice .input → ¬ inSamples inBase half x)
    (retain : ∀ n g, a = .retain n g → ¬ inSamples prevBase pkt x) : (a.perform P s).byteAt x = s.byteAt x := by
  cases a with
  | splice p =>
    cases p with
    | input => exact State.byteAt_storeSamples_of_not_inSamples s (by simp [half]) (splice rfl)
    | scratch => rfl
  | retain n g => exact State.byteAt_storeSamples_of_not_inSamples s (by simp [State.inRegion]) (retain n g rfl)
  | _ => rfl

/-- The memory frame of a run: TAIL, IN[0..80) where a line splices IN, PREV where a line retains an arrival. -/
theorem runActions_byteAt (P : Params) {lines : List Action} (s : State) {x : Nat}
    (tail : ¬ inSamples tailBase half x) (splice : .splice .input ∈ lines → ¬ inSamples inBase half x)
    (retain : ∀ n g, .retain n g ∈ lines → ¬ inSamples prevBase pkt x) :
    (runActions P lines s).byteAt x = s.byteAt x :=
  runActions_keeps_of_sized (Q := fun u => u.byteAt x = s.byteAt x)
    (fun u _ ht h => (u.sent_byteAt ht tail).trans h)
    (fun a ha u h => (a.perform_byteAt P u (fun e => splice (e ▸ ha)) (fun n g e => retain n g (e ▸ ha))).trans h)
    (fun _ h => h) (fun _ _ _ h => h) rfl

theorem appendIn_byteAt (P : Params) (s : State) {x : Nat} (tail : ¬ inSamples tailBase half x) :
    (appendIn P s).byteAt x = s.byteAt x := by
  obtain ⟨-, e⟩ | ⟨-, e⟩ := appendIn_cases P s <;> rw [e]
  · exact runActions_byteAt P s tail (by simp) (by simp)
  · rfl

theorem smoothIn_byteAt (P : Params) (s : State) {x : Nat} (tail : ¬ inSamples tailBase half x)
    (head : ¬ inSamples inBase half x) : (smoothIn P s).byteAt x = s.byteAt x := by
  obtain ⟨-, -, e⟩ | ⟨-, e⟩ | ⟨-, -, e⟩ := smoothIn_cases P s <;> rw [e]
  · exact runActions_byteAt P s tail (fun _ => head) (by simp [smoothJ])
  · rfl
  · rfl

theorem arrive_byteAt (P : Params) (s : State) {x : Nat} (tail : ¬ inSamples tailBase half x)
    (head : ¬ inSamples inBase half x) (prev : ¬ inSamples prevBase pkt x) :
    (arrive P s).byteAt x = s.byteAt x := by
  obtain ⟨-, -, e⟩ | ⟨-, e⟩ | ⟨-, -, e⟩ := arrive_cases P s <;> rw [e]
  · exact runActions_byteAt P s tail (fun _ => head) (fun _ _ _ => prev)
  · rfl
  · rfl

/-- Settles O36, by the frame of each command's lines. -/
theorem sinkCommandsMemoryFrame : Obligations.SinkCommandsMemoryFrame := by
  intro s t a
  refine ⟨fun e => ?_, fun e => ?_, fun e => ?_, fun e => ?_, fun e => ?_⟩ <;> cases e
  · rfl
  · rfl
  · exact fun tail => appendIn_byteAt _ s tail
  · exact fun tail head => smoothIn_byteAt _ s tail head
  · exact fun tail head prev => arrive_byteAt _ s tail head prev

/-! ### TAIL and the end of the sink -/

/-- Only the sink and TAIL decide whether TAIL is the end of the sink. -/
theorem State.tailMirrors_congr {s t : State} (h : s.tailMirrors) (hsink : t.sink = s.sink)
    (htail : t.tailRegion = s.tailRegion) : t.tailMirrors := by
  unfold State.tailMirrors
  rw [hsink, htail]
  exact h

/-- An accepted append makes TAIL the end of the sink (20_memory.md R64). -/
theorem State.sent_append_tailMirrors (s : State) {p : List Sample} (hp : p.length = 320) :
    (s.sent (.append p)).tailMirrors := by
  have hsink : (s.sent (.append p)).sink = s.sink ++ p := rfl
  unfold State.tailMirrors
  rw [s.sent_tail_append hp, hsink, List.length_append, hp]
  refine ⟨by simp only [half]; omega, ?_⟩
  rw [show s.sink.length + 320 - half = s.sink.length + 240 by simp only [half]; omega, List.drop_append]
  simp

/-- An accepted amend of a sink of at least 80 samples makes TAIL its end (20_memory.md R65). -/
theorem State.sent_amend_tailMirrors {s : State} {a : List Sample} (ha : a.length = 80) (h : half ≤ s.sink.length) :
    (s.sent (.amend a)).tailMirrors := by
  have hsink : (s.sent (.amend a)).sink = s.sink.take (s.sink.length - half) ++ a := if_pos h
  have hlen : (s.sink.take (s.sink.length - half)).length = s.sink.length - half := by simp
  unfold State.tailMirrors
  rw [s.sent_tail_amend ha, hsink, List.length_append, hlen, ha]
  refine ⟨by simp only [half]; omega, ?_⟩
  rw [show s.sink.length - half + 80 - half = s.sink.length - half by simp only [half]; omega]
  exact (List.drop_left' hlen).symm

theorem State.sent_tailMirrors {s : State} {t : Txn} (ht : t.sized) (h : s.tailMirrors) : (s.sent t).tailMirrors := by
  cases t with
  | append p => exact s.sent_append_tailMirrors ht
  | amend a => exact State.sent_amend_tailMirrors ht h.1

/-- A line that sends nothing touches neither the sink nor TAIL. -/
theorem Action.perform_tailMirrors (P : Params) (a : Action) {s : State} (h : s.tailMirrors) :
    (a.perform P s).tailMirrors := by
  cases a with
  | splice p =>
    cases p with
    | input =>
      refine State.tailMirrors_congr h rfl (State.samples_storeSamples_disjoint s (.inr ?_))
      simp [half, inBase, tailBase]
    | scratch => exact h
  | retain n g =>
    refine State.tailMirrors_congr h rfl (State.samples_storeSamples_disjoint s (.inr ?_))
    simp [State.inRegion, prevBase, pkt, tailBase]
  | _ => exact h

theorem runActions_tailMirrors (P : Params) (lines : List Action) {s : State} (h : s.tailMirrors) :
    (runActions P lines s).tailMirrors :=
  runActions_keeps_of_sized (fun _ _ ht hu => State.sent_tailMirrors ht hu)
    (fun a _ _ hu => a.perform_tailMirrors P hu) (fun _ hu => hu) (fun _ _ _ hu => hu) h

/-- An APPEND that the sink accepts at once is one transaction, and completes. -/
theorem appendIn_of_willing (P : Params) {s : State} (room : s.sinkPkts.toNat + 1 ≤ s.sinkCap)
    (willing : s.willAccept 1) : appendIn P s = (s.sent (.append s.inRegion)).complete := by
  rw [appendIn, if_pos (State.hasRoom_iff.2 room), runActions_accepted (n := 0) [] rfl willing]
  rfl

/-- Settles O38: every line of a run keeps the mirror, and an accepted append establishes it. -/
theorem tailMirrorsTheSink : Obligations.TailMirrorsTheSink := by
  refine ⟨fun i s t hi e h => ?_, fun s t e room willing => ?_⟩
  · obtain ⟨-, e'⟩ | ⟨-, e'⟩ | ⟨start, xs, -, hx, -⟩ | ⟨w, -, hx, -⟩ | ⟨code, -, -, e'⟩ | ⟨lines, -, -, e'⟩ :=
      exec_cases i s
    · rw [e'] at e; cases e; exact h
    · rw [e'] at e; cases e; exact h
    · obtain rfl | rfl | rfl := hi <;> simp at hx
    · subst hx; simp at hi
    · rw [e'] at e; cases e; exact h
    · rw [e'] at e; cases e; exact runActions_tailMirrors _ lines h
  · cases e
    rw [appendIn_of_willing Config.params room willing]
    exact s.sent_append_tailMirrors (by simp [State.inRegion])

end Sys2Proof.Machine
end

section
/-! SUPPORT. When a session starts and ends: what a run of lines, a command, the engine's turn and every other move do to
RS_STATE, PREV_SEQNO and GAPLEN (10_state.md R23; 60_exceptions.md R206). -/

namespace Sys2Proof.Machine

/-- RS_STATE, PREV_SEQNO and GAPLEN are the same. -/
def State.SameSession (s t : State) : Prop :=
  t.rsState = s.rsState ∧ t.prevSeqno = s.prevSeqno ∧ t.gaplen = s.gaplen

/-- The command has completed without an error. -/
def State.Succeeded (t : State) : Prop := t.busy = false ∧ t.done = true ∧ t.err = false

/-- The command has completed, and one of these lines has committed its arrival (44_receiver.md R180). -/
def State.CommittedBy (t : State) (lines : List Action) : Prop :=
  ∃ n g, .retain n g ∈ lines ∧ t.busy = false ∧ t.done = true ∧ t.rsState = .tracking ∧ t.prevSeqno = n ∧ t.gaplen = g

/-- A run of lines leaves the session alone, or has committed an arrival, with which it has completed. -/
theorem runActions_session (P : Params) {lines : List Action} {s : State} (h : commitsLast lines) :
    s.SameSession (runActions P lines s) ∨ (runActions P lines s).CommittedBy lines := by
  induction lines generalizing s with
  | nil => exact .inl ⟨rfl, rfl, rfl⟩
  | cons a rest ih =>
    obtain ⟨hlast, hrest⟩ := commitsLast_cons.1 h
    have goOn : ∀ u : State, s.SameSession u →
        s.SameSession (runActions P rest u) ∨ (runActions P rest u).CommittedBy (a :: rest) := by
      rintro u ⟨hrs, hprev, hgap⟩
      obtain ⟨hrs', hprev', hgap'⟩ | ⟨n, g, hm, committed⟩ := ih (s := u) hrest
      · exact .inl ⟨hrs'.trans hrs, hprev'.trans hprev, hgap'.trans hgap⟩
      · exact .inr ⟨n, g, List.mem_cons_of_mem a hm, committed⟩
    simp only [runActions]
    split
    · cases hc : a.commits with
      | false => exact goOn _ (Action.perform_session P s hc)
      | true =>
        obtain ⟨n, g, rfl, hrs, hprev, hgap⟩ := Action.perform_tracking P s hc
        obtain rfl | hno := hlast
        · exact .inr ⟨n, g, List.mem_cons_self, rfl, rfl, hrs, hprev, hgap⟩
        · cases hno
    · next t _ =>
      split
      · next s' hs =>
        rw [State.acceptance_transact hs]
        obtain ⟨-, -, -, same⟩ := s.sent_keeps t
        exact goOn _ same
      · exact .inl ⟨rfl, rfl, rfl⟩

/-- What a turn of the engine from a good state can do to the session: nothing, let a latched ARRIVE commit its arrival
and succeed, or let a latched CLEAR end it and succeed. -/
def SessionMove (s t : State) : Prop :=
  s.SameSession t ∨
  (s.busy = true ∧ s.pending = some (encode .arrive) ∧ t.Succeeded ∧ t.rsState = .tracking ∧ t.prevSeqno = s.seqno) ∨
  (s.busy = true ∧ s.pending = some (encode .clear) ∧ t.Succeeded ∧ t.rsState = .empty)

/-- Lines that are sound to run make one of these moves. -/
theorem State.Runs.sessionMove {s : State} {lines : List Action} (h : s.Runs lines) (P : Params) :
    SessionMove s (runActions P lines s) := by
  obtain same | ⟨n, g, hm, hbusy, hdone, hrs, hprev, -⟩ := runActions_session P (s := s) h.uncommitted
  · exact .inl same
  · obtain ⟨hp, hn⟩ := h.arrival n g hm
    have herr := (runActions_sameHostSide P lines s).err.trans h.err
    exact .inr (.inl ⟨h.busy, hp, ⟨hbusy, hdone, herr⟩, hrs, hprev.trans hn⟩)

theorem exec_sessionMove {i : Instr} {s t : State} (h : s.Good) (released : s.rstAsserted = false)
    (busy : s.busy = true) (hp : s.pending = some (encode i)) (e : exec i s = .next t) : SessionMove s t := by
  obtain ⟨-, e'⟩ | ⟨rfl, e'⟩ | ⟨start, xs, -, -, e'⟩ | ⟨w, -, -, e'⟩ | ⟨code, -, -, e'⟩ | ⟨lines, hcap, hlines, e'⟩ :=
    exec_cases i s <;> (rw [e'] at e; cases e)
  · exact .inl ⟨rfl, rfl, rfl⟩
  · exact .inr (.inr ⟨busy, hp, ⟨rfl, rfl, (h.fresh busy).2⟩, rfl⟩)
  · exact .inl ⟨rfl, rfl, rfl⟩
  · exact .inl ⟨rfl, rfl, rfl⟩
  · exact .inl ⟨rfl, rfl, rfl⟩
  · exact (h.runs_of_sending released busy hp hcap hlines).sessionMove _

theorem engineMoves_sessionMove {s t : State} (h : s.Good) (e : engineMoves s = .next t) : SessionMove s t := by
  cases hr : s.rstAsserted with
  | true => rw [engineMoves_asserted hr] at e; cases e; exact .inl ⟨rfl, rfl, rfl⟩
  | false =>
    rw [engineMoves_released hr] at e
    obtain ⟨-, e'⟩ | ⟨lines, -, hw, e'⟩ | ⟨w, i, hb, -, hp, hd, e'⟩ | ⟨w, x, -, -, -, -, e'⟩ | ⟨-, -, -, e'⟩ :=
      engineTurn_cases s <;> rw [e'] at e
    · cases e; exact .inl ⟨rfl, rfl, rfl⟩
    · cases e; exact (h.runs_waiting hr hw).sessionMove _
    · exact exec_sessionMove h hr hb (by rw [hp, eq_encode_of_decodeWord hd]) e
    · cases e; exact .inl ⟨rfl, rfl, rfl⟩
    · cases e

/-! ### The other moves -/

/-- No register write touches the session (10_state.md R26: PREV_SEQNO and GAPLEN are read-only). -/
theorem State.writeReg_session (s : State) (v : Word) (r : Reg) : s.SameSession (s.writeReg v r) := by
  cases r with
  | strategy =>
    show s.SameSession (s.writeStrategy v)
    obtain ⟨st, -, -, e⟩ | ⟨-, e⟩ := s.writeStrategy_cases v <;> (rw [e]; exact ⟨rfl, rfl, rfl⟩)
  | _ => exact ⟨rfl, rfl, rfl⟩

theorem State.hostAccess_session (s : State) (a : Access) : s.SameSession (s.hostAccess a) := by
  obtain ⟨-, e⟩ | ⟨-, -, -, e⟩ | ⟨-, -, e⟩ := s.hostAccess_cases a <;> rw [e]
  · exact ⟨rfl, rfl, rfl⟩
  · exact ⟨rfl, rfl, rfl⟩
  · show s.SameSession (s.perform a).1
    obtain ⟨-, e⟩ | ⟨-, e⟩ | ⟨r, v, -, -, e⟩ := s.perform_cases a <;> rw [e]
    · exact ⟨rfl, rfl, rfl⟩
    · exact ⟨rfl, rfl, rfl⟩
    · exact s.writeReg_session v r

/-- While `rst_n` is 0 a good state has no session (70_reset_and_hazards.md R230). -/
theorem State.Good.session_of_asserted {s : State} (h : s.Good) (asserted : s.rstAsserted = true) :
    s.rsState = .empty ∧ s.prevSeqno = 0 ∧ s.gaplen = 0 := by
  rw [h.held asserted]
  exact ⟨rfl, rfl, rfl⟩

theorem State.Good.hostAccess_held_session {s : State} (h : s.Good) (a : Access) :
    s.SameSession (s.hostAccess a).held := by
  cases hr : s.rstAsserted with
  | false =>
    rw [State.held_released ((s.hostAccess_keeps a).1.trans hr)]
    exact s.hostAccess_session a
  | true =>
    rw [State.hostAccess_held hr]
    obtain ⟨hrs, hprev, hgap⟩ := h.session_of_asserted hr
    exact ⟨hrs.symm, hprev.symm, hgap.symm⟩

theorem State.Good.releaseReset_session {s : State} (h : s.Good) (bytes : List Byte) :
    s.SameSession (s.releaseReset bytes) := by
  cases hr : s.rstAsserted with
  | false => rw [State.releaseReset_released hr]; exact ⟨rfl, rfl, rfl⟩
  | true =>
    rw [State.releaseReset_asserted hr]
    obtain ⟨hrs, hprev, hgap⟩ := h.session_of_asserted hr
    exact ⟨hrs.symm, hprev.symm, hgap.symm⟩

/-- The fall of `rst_n` leaves no session. -/
theorem State.Good.assertReset_rsState {s : State} (h : s.Good) (kept : Bool) :
    (s.assertReset kept).rsState = .empty := by
  cases hr : s.rstAsserted with
  | true => rw [State.assertReset_asserted hr]; exact (h.session_of_asserted hr).1
  | false => obtain ⟨-, e⟩ | ⟨x, -, -, e⟩ := State.assertReset_cases hr kept <;> (rw [e]; rfl)

/-- What a move from a good state can do to the session: what the engine's turn can, or the fall of `rst_n`. -/
theorem takeEvent_sessionMove {e : Event} {s t : State} (h : s.Good) (ht : takeEvent e s = .next t) :
    SessionMove s t ∨ (t.rsState = .empty ∧ ∃ kept, e = .assertReset kept) := by
  cases e with
  | engine => exact .inl (engineMoves_sessionMove h ht)
  | host a => cases ht; exact .inl (.inl (h.hostAccess_held_session a))
  | poll =>
    cases ht
    have same := h.hostAccess_held_session rdStatus
    refine .inl (.inl ?_)
    split
    · exact same
    · exact same
  | sinkWilling limit => cases ht; exact .inl (.inl ⟨rfl, rfl, rfl⟩)
  | newSink content => cases ht; exact .inl (.inl ⟨rfl, rfl, rfl⟩)
  | assertReset kept => cases ht; exact .inr ⟨h.assertReset_rsState kept, kept, rfl⟩
  | releaseReset bytes => cases ht; exact .inl (.inl (h.releaseReset_session bytes))

/-- What a step from a good state can do to the session. -/
theorem step_sessionMove {s t : State} (h : s.Good) (e : step s = .next t) :
    SessionMove s t ∨ (t.rsState = .empty ∧ ∃ kept rest, s.inputs = .assertReset kept :: rest) := by
  cases hi : s.inputs with
  | nil =>
    rw [step_unlisted hi] at e
    exact .inl (engineMoves_sessionMove h e)
  | cons move rest =>
    rw [step_listed hi] at e
    obtain moved | ⟨hrs, kept, rfl⟩ := takeEvent_sessionMove (h.with_world rest s.sink s.sinkAccepts) e
    · exact .inl moved
    · exact .inr ⟨hrs, kept, rest, rfl⟩

/-- Settles O58: of the moves of `step_sessionMove`, only ARRIVE's leads from Empty to Tracking, and only CLEAR's and
the fall of `rst_n` lead back. -/
theorem onlyArriveStartsAndOnlyClearOrResetEndsTracking :
    Obligations.OnlyArriveStartsAndOnlyClearOrResetEndsTracking := by
  intro s t h e
  refine ⟨fun hs ht => ?_, fun hs ht => ?_⟩
  · obtain (⟨hrs, -, -⟩ | ⟨hb, hp, ⟨hbusy, hdone, herr⟩, -, hprev⟩ | ⟨-, -, -, hrs⟩) | ⟨hrs, -⟩ := step_sessionMove h e
    · rw [hrs, hs] at ht; cases ht
    · exact ⟨hb, hp, hbusy, hdone, herr, hprev⟩
    · rw [hrs] at ht; cases ht
    · rw [hrs] at ht; cases ht
  · obtain (⟨hrs, -, -⟩ | ⟨-, -, -, hrs, -⟩ | ⟨hb, hp, ⟨hbusy, hdone, herr⟩, -⟩) | ⟨-, reset⟩ := step_sessionMove h e
    · rw [hrs, hs] at ht; cases ht
    · rw [hrs] at ht; cases ht
    · exact .inl ⟨hb, hp, hbusy, hdone, herr⟩
    · exact .inr reset

end Sys2Proof.Machine
end

section
/-! SUPPORT. The registers as the host sees them: STATUS by bits, the writes of STATUS and STRATEGY, `irq`, and the reset
values (10_state.md R26, R30, R31, R33, R47). -/

namespace Sys2Proof.Machine

/-! ### Register accesses -/

/-- The offset of a register as the 13 bits the port carries. -/
theorem Reg.toNat_offset {off : BitVec 13} {r : Reg} (h : off = BitVec.ofNat 13 r.offset) : off.toNat = r.offset := by
  have := r.offset_lt
  rw [h, BitVec.toNat_ofNat]
  omega

theorem Reg.word_legal {off : BitVec 13} {r : Reg} (h : off = BitVec.ofNat 13 r.offset) (d : Direction) :
    (Access.mk off .word d).legal = true := by
  refine Access.legal_iff.2 (.inr ⟨rfl, ?_⟩)
  show off.toNat % 4 = 0
  rw [Reg.toNat_offset h]
  exact r.offset_aligned

/-- A legal access that is not refused is performed and answered (20_memory.md R56 to R62). -/
theorem State.hostAccess_performed {s : State} {a : Access} (legal : a.legal = true)
    (allowed : s.busy = false ∨ a.allowedBusy = true) :
    s.hostAccess a = { (s.perform a).1 with response := some (s.perform a).2 } := by
  obtain ⟨illegal, -⟩ | ⟨-, busy, refused, -⟩ | ⟨-, -, e⟩ := s.hostAccess_cases a
  · rw [legal] at illegal; cases illegal
  · obtain idle | ok := allowed
    · rw [idle] at busy; cases busy
    · rw [ok] at refused; cases refused
  · exact e

/-- A 32-bit write of a register, while BUSY is 0 or where it may be written while BUSY (20_memory.md R57, R62). -/
theorem State.hostAccess_reg_write (s : State) {off : BitVec 13} {r : Reg} (ho : off = BitVec.ofNat 13 r.offset)
    (v : Word) (h : s.busy = false ∨ r.writableBusy = true) :
    s.hostAccess ⟨off, .word, .write v⟩ = { s.writeReg v r with response := some .written } := by
  have hoff : (Access.mk off .word (.write v)).offset.toNat = r.offset := Reg.toNat_offset ho
  have allowed := h.imp_right fun hw => Access.allowedBusy_iff.2 (.inr ⟨v, rfl, r, hoff.symm, hw⟩)
  rw [State.hostAccess_performed (Reg.word_legal ho _) allowed, State.perform_reg_write s hoff rfl]

/-- A 32-bit read of a register, while BUSY is 0 or where it may be read while BUSY (20_memory.md R56, R62). -/
theorem State.hostAccess_reg_read (s : State) {off : BitVec 13} {r : Reg} (ho : off = BitVec.ofNat 13 r.offset)
    (h : s.busy = false ∨ r.readableBusy = true) :
    s.hostAccess ⟨off, .word, .read⟩ = { s with response := some (.read32 (s.readReg r)) } := by
  have hoff : (Access.mk off .word .read).offset.toNat = r.offset := Reg.toNat_offset ho
  have allowed := h.imp_right fun hr => Access.allowedBusy_iff.2 (.inl ⟨rfl, r, hoff.symm, hr⟩)
  rw [State.hostAccess_performed (Reg.word_legal ho _) allowed, State.perform_reg_read s hoff rfl]

/-! ### STATUS -/

/-- Bit by bit, the word that STATUS reads as (10_state.md R30). -/
theorem State.statusWord_getLsbD (s : State) (i : Nat) :
    s.statusWord.getLsbD i =
      if i = 0 then s.busy
      else if i = 1 then s.done
      else if i = 2 then s.err
      else if i = 3 then s.busyErr
      else if i = 4 then s.cfgErr
      else if i < 8 then false
      else if i < 12 then s.errcode.code.getLsbD (i - 8)
      else if i = 16 then s.rsState.tracks
      else false := by
  change BitVec.getLsbD (w := 15 + 1 + 4 + 4 + 3 + 1 + 1 + 1 + 1 + 1) _ i = _
  simp only [State.statusWord, BitVec.getLsbD_append, BitVec.getLsbD_ofBool, BitVec.getLsbD_zero, Nat.sub_sub]
  by_cases flag : i < 5
  · interval_cases i <;> simp
  · obtain ⟨k, rfl⟩ := Nat.exists_eq_add_of_le (Nat.le_of_not_lt flag)
    grind

theorem State.statusWord_code (s : State) : s.statusWord.extractLsb' 8 4 = s.errcode.code := by
  ext i hi
  rw [BitVec.getElem_extractLsb', State.statusWord_getLsbD, Nat.add_sub_cancel_left]
  grind

/-- Bits that hold no field read 0. -/
theorem State.statusWord_reserved (s : State) {a n : Nat}
    (h : ∀ i, a ≤ i → i < a + n → (4 < i ∧ i < 8) ∨ (11 < i ∧ i ≠ 16)) : s.statusWord.extractLsb' a n = 0#n := by
  ext i hi
  have := h (a + i) (by omega) (by omega)
  rw [BitVec.getElem_extractLsb', State.statusWord_getLsbD]
  grind

/-- Settles O44, from the word bit by bit. -/
theorem statusWordFields : Obligations.StatusWordFields := by
  intro s
  have bit := s.statusWord_getLsbD
  refine ⟨bit 0, bit 1, bit 2, bit 3, bit 4, s.statusWord_reserved (by omega), ?_, s.statusWord_reserved (by omega), ?_,
    s.statusWord_reserved (by omega)⟩
  · intro e c hec he
    rw [s.statusWord_code, he]
    simp only [List.mem_cons, Prod.mk.injEq, List.not_mem_nil, or_false] at hec
    obtain ⟨rfl, rfl⟩ | ⟨rfl, rfl⟩ | ⟨rfl, rfl⟩ | ⟨rfl, rfl⟩ | ⟨rfl, rfl⟩ | ⟨rfl, rfl⟩ := hec <;> rfl
  · refine (bit 16).trans ?_
    cases s.rsState <;> rfl

/-- A STATUS write at any time: BUSY does not refuse it (20_memory.md R62). -/
theorem State.hostAccess_write_status (s : State) (v : Word) :
    s.hostAccess ⟨0x00C, .word, .write v⟩ = { s.writeStatus v with response := some .written } :=
  s.hostAccess_reg_write (r := .status) rfl v (.inr rfl)

/-- Settles O45: the write is `State.writeStatus`, whatever BUSY is. -/
theorem statusWritesClearWhatTheyName : Obligations.StatusWritesClearWhatTheyName := by
  intro s v
  have cleared : ∀ b c : Bool, (b && !c) = if c then false else b := by decide
  rw [State.hostAccess_write_status]
  simp only [State.writeStatus, cleared]

/-! ### `irq` -/

theorem State.acknowledge_irq (s : State) : s.acknowledge.irq = false := rfl

/-- Settles O50: the write is `State.acknowledge`, after which neither term of `irq` holds. -/
theorem irqIsALevelThatAcknowledgementDrops : Obligations.IrqIsALevelThatAcknowledgementDrops := by
  refine ⟨fun _ => rfl, rfl, fun s => ?_⟩
  rw [State.hostAccess_write_status, State.writeStatus_acknowledges]
  exact ⟨rfl, s.acknowledge_irq⟩

/-! ### STRATEGY -/

theorem Strategy.ofCode_code (st : Strategy) : Strategy.ofCode st.code = some st := by
  cases st <;> rfl

/-- The codes 5, 6 and 7 are no strategy's (10_state.md R33). -/
theorem Strategy.ofCode_of_ge : ∀ c : BitVec 3, 5 ≤ c.toNat → Strategy.ofCode c = none := by decide

/-- The codes of the strategies as 10_state.md R33 lists them. -/
theorem Strategy.code_of_mem {st : Strategy} {c : BitVec 3}
    (h : (st, c) ∈ [(Strategy.silence, 0#3), (.repeatPrevious, 1#3), (.repeatNext, 2#3), (.repeatBoth, 3#3),
      (.spectralInterpolate, 4#3)]) : st.code = c := by
  simp only [List.mem_cons, Prod.mk.injEq, List.not_mem_nil, or_false] at h
  obtain ⟨rfl, rfl⟩ | ⟨rfl, rfl⟩ | ⟨rfl, rfl⟩ | ⟨rfl, rfl⟩ | ⟨rfl, rfl⟩ := h <;> rfl

theorem State.writeStrategy_stored {s : State} {v : Word} {st : Strategy} (empty : s.rsState = .empty)
    (hv : v.extractLsb' 0 3 = st.code) : s.writeStrategy v = { s with strategy := st } := by
  have hcode : Strategy.ofCode (v.extractLsb' 0 3) = some st := by rw [hv, Strategy.ofCode_code]
  obtain ⟨st', -, hst', e⟩ | ⟨tracking | illegal, -⟩ := s.writeStrategy_cases v
  · obtain rfl : st = st' := Option.some.inj (hcode.symm.trans hst')
    exact e
  · rw [empty] at tracking; cases tracking
  · rw [hcode] at illegal; cases illegal

theorem State.writeStrategy_ignored {s : State} {v : Word}
    (h : s.rsState = .tracking ∨ Strategy.ofCode (v.extractLsb' 0 3) = none) :
    s.writeStrategy v = { s with cfgErr := true } := by
  obtain ⟨st, empty, legal, -⟩ | ⟨-, e⟩ := s.writeStrategy_cases v
  · obtain tracking | illegal := h
    · rw [empty] at tracking; cases tracking
    · rw [legal] at illegal; cases illegal
  · exact e

/-- Settles O46: the write is `State.writeStrategy`, the read `Strategy.code`. -/
theorem strategyWritesAreLockedAndLegal : Obligations.StrategyWritesAreLockedAndLegal := by
  intro s v idle
  have written : s.hostAccess ⟨0x014, .word, .write v⟩ = { s.writeStrategy v with response := some .written } :=
    s.hostAccess_reg_write (r := .strategy) rfl v (.inl idle)
  refine ⟨fun tracking => ?_, fun _ illegal => ?_, fun st c hc => ⟨fun empty hv => ?_, fun hst => ?_⟩⟩
  · rw [written, State.writeStrategy_ignored (.inl tracking)]
  · rw [written, State.writeStrategy_ignored (.inr (Strategy.ofCode_of_ge _ illegal))]
  · rw [written, State.writeStrategy_stored empty (hv.trans (Strategy.code_of_mem hc).symm)]
  · refine (s.hostAccess_reg_read (r := .strategy) rfl (.inl idle)).trans ?_
    rw [State.readReg, hst, Strategy.code_of_mem hc]

/-! ### Reset values -/

/-- What a register reads at reset; SINK_CAP is the constant of its block (10_state.md R26, R38). -/
def Reg.resetValue (s : State) : Reg → Word
  | .id => 0x42534D01#32
  | .param => 0x08000140#32
  | .sinkCap => BitVec.ofNat 32 s.sinkCap
  | _ => 0

/-- CTRL reads 0 with both enables 0. -/
theorem State.ctrlWord_zero {s : State} (doneIE : s.doneIE = false) (errIE : s.errIE = false) : s.ctrlWord = 0 := by
  rw [State.ctrlWord, doneIE, errIE]
  decide

/-- STATUS reads 0 with no flag, no code and no session. -/
theorem State.statusWord_zero {s : State} (busy : s.busy = false) (done : s.done = false) (err : s.err = false)
    (busyErr : s.busyErr = false) (cfgErr : s.cfgErr = false) (errcode : s.errcode = .none)
    (rsState : s.rsState = .empty) : s.statusWord = 0 := by
  rw [State.statusWord, busy, done, err, busyErr, cfgErr, errcode, rsState]
  decide

/-- Every register reads its reset value while `rst_n` is 0 and right after its rise. -/
theorem State.readReg_underReset (s : State) (level : Bool) (m : Memory) (n : Nat) (r : Reg) :
    State.readReg { s.underReset with rstAsserted := level, sram := m, resets := n } r = r.resetValue s := by
  cases r with
  | ctrl => exact State.ctrlWord_zero rfl rfl
  | status => exact State.statusWord_zero rfl rfl rfl rfl rfl rfl rfl
  | _ => rfl

/-- Settles O51: the power-on state, the fall and the rise of `rst_n` all leave `State.underReset`, but for the level,
the sample memory and its counter. -/
theorem resetLeavesTheResetValues : Obligations.ResetLeavesTheResetValues := by
  unfold Obligations.ResetLeavesTheResetValues
  intro resetValues
  have atReset : ∀ (s : State) (level : Bool) (m : Memory) (n : Nat),
      resetValues { s.underReset with rstAsserted := level, sram := m, resets := n } := by
    intro s level m n
    have reads := s.readReg_underReset level m n
    exact ⟨reads .id, reads .param, reads .ctrl, reads .status, reads .cmd, reads .strategy, reads .seqno,
      reads .prevSeqno, reads .gaplen, reads .sinkPkts, reads .arg0, reads .arg1, reads .arg2, rfl, rfl, rfl, rfl⟩
  refine ⟨⟨atReset State.reset false [] 0, rfl, rfl⟩, fun s => ⟨fun released kept => ?_, fun asserted bytes => ?_⟩⟩
  · obtain ⟨-, e⟩ | ⟨x, -, -, e⟩ := State.assertReset_cases released kept <;> rw [e]
    · exact ⟨atReset s true [] _, rfl, rfl⟩
    · exact ⟨atReset (s.sinkTakes x) true [] _, rfl, rfl⟩
  · rw [State.releaseReset_asserted asserted]
    exact ⟨atReset s false _ _, rfl, rfl⟩

end Sys2Proof.Machine
end

section
/-! SUPPORT. What the host port answers to each access: bus errors, the refusals while BUSY, registers, samples, and the
block's window (20_memory.md R51 to R62). -/

namespace Sys2Proof.Machine

/-! ### Answers of the port -/

/-- An illegal access gets a bus error, BUSY or not (20_memory.md R55). -/
theorem State.hostAccess_illegal (s : State) {a : Access} (illegal : a.legal = false) :
    s.hostAccess a = { s with response := some .busError } := by
  simp [State.hostAccess, illegal]

/-- A legal access that is not allowed while BUSY is refused (20_memory.md R62). -/
theorem State.hostAccess_refused {s : State} {a : Access} (legal : a.legal = true) (busy : s.busy = true)
    (refused : a.allowedBusy = false) : s.hostAccess a = { s with busyErr := true, response := some a.refusal } := by
  simp [State.hostAccess, legal, busy, refused]

/-- Settles O41: none of these accesses is legal. -/
theorem illegalAccessGetsABusError : Obligations.IllegalAccessGetsABusError := by
  intro s a h
  refine s.hostAccess_illegal (Bool.eq_false_iff.2 fun legal => ?_)
  rw [Access.legal_iff] at legal
  obtain hw | ⟨hw, hoff⟩ | ⟨hw, hoff⟩ := h
  · simp [hw] at legal
  · simp only [hw, reduceCtorEq, true_and, false_and, or_false] at legal
    omega
  · simp only [hw, reduceCtorEq, true_and, false_and, false_or] at legal
    exact hoff legal

/-! ### Accesses while BUSY -/

/-- A legal access at a register's offset is the 32-bit access of that register (20_memory.md R54). -/
theorem Access.eq_of_legal_reg {a : Access} {r : Reg} (legal : a.legal = true) (ho : a.offset.toNat = r.offset) :
    a = ⟨BitVec.ofNat 13 r.offset, .word, a.direction⟩ := by
  have hlt := r.offset_lt
  have hw : a.width = .word := by
    obtain ⟨-, hbase, -⟩ | ⟨hw, -⟩ := Access.legal_iff.1 legal
    · omega
    · exact hw
  have hoff : a.offset = BitVec.ofNat 13 r.offset := by rw [← ho, BitVec.ofNat_toNat, BitVec.setWidth_eq]
  rw [← hw, ← hoff]

/-- A legal read at the offset of a register that may be read while BUSY (20_memory.md R56, R62). -/
theorem State.hostAccess_read_allowed (s : State) {a : Access} {r : Reg} (legal : a.legal = true)
    (hd : a.direction = .read) (readable : r.readableBusy = true) (ho : a.offset.toNat = r.offset) :
    s.hostAccess a = { s with response := some (.read32 (s.readReg r)) } := by
  rw [Access.eq_of_legal_reg legal ho, hd, s.hostAccess_reg_read rfl (.inr readable)]

/-- A legal write at the offset of a register that may be written while BUSY (20_memory.md R57, R62). -/
theorem State.hostAccess_write_allowed (s : State) {a : Access} {r : Reg} {v : Word} (legal : a.legal = true)
    (hd : a.direction = .write v) (writable : r.writableBusy = true) (ho : a.offset.toNat = r.offset) :
    s.hostAccess a = { s.writeReg v r with response := some .written } := by
  rw [Access.eq_of_legal_reg legal ho, hd, s.hostAccess_reg_write rfl v (.inr writable)]

/-- A read that names no register readable while BUSY is not allowed then (20_memory.md R62). -/
theorem Access.read_not_allowedBusy {a : Access} (hd : a.direction = .read)
    (h : ∀ r : Reg, r.readableBusy = true → a.offset.toNat ≠ r.offset) : a.allowedBusy = false := by
  refine Bool.eq_false_iff.2 fun allowed => ?_
  obtain ⟨-, r, ho, readable⟩ | ⟨v, hw, -⟩ := Access.allowedBusy_iff.1 allowed
  · exact h r readable ho.symm
  · rw [hd] at hw; cases hw

/-- A write that names no register writable while BUSY is not allowed then (20_memory.md R62). -/
theorem Access.write_not_allowedBusy {a : Access} {v : Word} (hd : a.direction = .write v)
    (h : ∀ r : Reg, r.writableBusy = true → a.offset.toNat ≠ r.offset) : a.allowedBusy = false := by
  refine Bool.eq_false_iff.2 fun allowed => ?_
  obtain ⟨hr, -⟩ | ⟨-, -, r, ho, writable⟩ := Access.allowedBusy_iff.1 allowed
  · rw [hd] at hr; cases hr
  · exact h r writable ho.symm

theorem Access.refusal_read {a : Access} (hd : a.direction = .read) :
    a.refusal = if a.width = .half then .read16 0#16 else .read32 0#32 := by
  unfold Access.refusal
  rw [hd]
  cases a.width <;> rfl

theorem Access.refusal_write {a : Access} {v : Word} (hd : a.direction = .write v) : a.refusal = .written := by
  unfold Access.refusal
  rw [hd]

/-- Settles O42: an allowed access is that of its register, and every other legal one is refused. -/
theorem busyBlockRefusesOtherAccesses : Obligations.BusyBlockRefusesOtherAccesses := by
  intro s a busy legal
  refine ⟨fun hd => ?_, fun v hd => ?_⟩
  · have reads := fun r : Reg => s.hostAccess_read_allowed (r := r) legal hd
    refine ⟨reads .id rfl, reads .param rfl, reads .ctrl rfl, reads .status rfl, reads .sinkCap rfl,
      fun hid hparam hctrl hstatus hcap => ?_⟩
    have refused : a.allowedBusy = false := Access.read_not_allowedBusy hd fun r readable => by
      cases r with
      | id => exact hid
      | param => exact hparam
      | ctrl => exact hctrl
      | status => exact hstatus
      | sinkCap => exact hcap
      | _ => cases readable
    rw [State.hostAccess_refused legal busy refused, Access.refusal_read hd]
  · have writes := fun r : Reg => s.hostAccess_write_allowed (r := r) legal hd
    refine ⟨writes .ctrl rfl, writes .status rfl, fun hctrl hstatus => ?_⟩
    have refused : a.allowedBusy = false := Access.write_not_allowedBusy hd fun r writable => by
      cases r with
      | ctrl => exact hctrl
      | status => exact hstatus
      | _ => cases writable
    rw [State.hostAccess_refused legal busy refused, Access.refusal_write hd]

/-! ### Registers while BUSY is 0 -/

/-- A 32-bit access to a reserved offset while BUSY is 0 reads 0 or is ignored (10_state.md R39). -/
theorem State.hostAccess_reserved {s : State} (idle : s.busy = false) {off : BitVec 13} (aligned : off.toNat % 4 = 0)
    (hspace : off.toNat < 0x1000) (hreserved : regAt off.toNat = none) (d : Direction) :
    s.hostAccess ⟨off, .word, d⟩ =
      { s with response := some (if d = .read then .read32 0#32 else .written) } := by
  rw [State.hostAccess_performed (Access.legal_iff.2 (.inr ⟨rfl, aligned⟩)) (.inl idle),
    State.perform_reserved s hspace hreserved]

/-- No register stands at or past 0x038 (10_state.md R26). -/
theorem regAt_of_ge {n : Nat} (h : 0x038 ≤ n) : regAt n = none :=
  regAt_eq_none.2 fun r hr => by have := r.offset_lt; omega

/-- While `rst_n` is 1 a host access that comes is made whole. -/
theorem takeEvent_host {s : State} (released : s.rstAsserted = false) (a : Access) :
    takeEvent (.host a) s = .next (s.hostAccess a) := by
  rw [takeEvent, State.held_released ((s.hostAccess_keeps a).1.trans released)]

/-- A read of STATUS is answered at any time (20_memory.md R62). -/
theorem State.hostAccess_rdStatus (s : State) :
    s.hostAccess rdStatus = { s with response := some (.read32 s.statusWord) } :=
  s.hostAccess_reg_read (r := .status) rfl (.inr rfl)

/-- A poll is a read of STATUS, and another poll after a turn of the engine while BUSY is 1 (log 23). -/
theorem takeEvent_poll {s : State} (released : s.rstAsserted = false) :
    takeEvent .poll s = .next
      { s with
        inputs := if s.busy then .engine :: .poll :: s.inputs else s.inputs
        response := some (.read32 s.statusWord) } := by
  have read : (s.hostAccess rdStatus).held = { s with response := some (.read32 s.statusWord) } := by
    rw [State.held_released ((s.hostAccess_keeps rdStatus).1.trans released), State.hostAccess_rdStatus]
  simp only [takeEvent, read]
  split <;> rfl

/-- Settles O43: an access at a register's offset is that register's, and any other reads 0 or is ignored. -/
theorem registerAccessesReadAndWriteTheRegisters : Obligations.RegisterAccessesReadAndWriteTheRegisters := by
  refine ⟨fun s rest released => ⟨fun a h => ?_, fun h => ?_⟩,
    fun s off idle aligned hspace => ⟨?_, fun v => ?_⟩⟩
  · exact (step_listed h).trans (takeEvent_host (s := { s with inputs := rest }) released a)
  · exact (step_listed h).trans (takeEvent_poll (s := { s with inputs := rest }) released)
  · cases hr : regAt off.toNat with
    | some r =>
      have ho : off = BitVec.ofNat 13 r.offset := by
        rw [regAt_eq_some.1 hr, BitVec.ofNat_toNat, BitVec.setWidth_eq]
      rw [s.hostAccess_reg_read ho (.inl idle), ho]
      cases r <;> rfl
    | none =>
      have ne : ∀ r : Reg, off ≠ BitVec.ofNat 13 r.offset := fun r ho =>
        regAt_eq_none.1 hr r (Reg.toNat_offset ho).symm
      rw [State.hostAccess_reserved idle aligned hspace hr]
      simp only [show off ≠ 0x000 from ne .id, show off ≠ 0x004 from ne .param, show off ≠ 0x008 from ne .ctrl,
        show off ≠ 0x00C from ne .status, show off ≠ 0x014 from ne .strategy, show off ≠ 0x018 from ne .seqno,
        show off ≠ 0x01C from ne .prevSeqno, show off ≠ 0x020 from ne .gaplen, show off ≠ 0x024 from ne .sinkPkts,
        show off ≠ 0x028 from ne .sinkCap, show off ≠ 0x02C from ne .arg0, show off ≠ 0x030 from ne .arg1,
        show off ≠ 0x034 from ne .arg2, if_true, if_false]
  · have writes := fun (r : Reg) (ho : off = BitVec.ofNat 13 r.offset) => s.hostAccess_reg_write ho v (.inl idle)
    refine ⟨writes .ctrl, writes .seqno, writes .arg0, writes .arg1, writes .arg2, ?_⟩
    rintro (h | h | h | h | h | h | h)
    · exact writes .id h
    · exact writes .param h
    · exact writes .prevSeqno h
    · exact writes .gaplen h
    · exact writes .sinkPkts h
    · exact writes .sinkCap h
    · exact State.hostAccess_reserved idle aligned hspace (regAt_of_ge h) (.write v)

/-! ### Samples -/

/-- A 16-bit access in the sample space while BUSY is 0 reads or stores one sample (20_memory.md R58, R59). -/
theorem State.hostAccess_half {s : State} (idle : s.busy = false) {off : BitVec 13} {i : Nat}
    (ho : off.toNat = 0x1000 + 2 * i) (v : Word) :
    s.hostAccess ⟨off, .half, .read⟩ = { s with response := some (.read16 (s.sampleAt i)) } ∧
    s.hostAccess ⟨off, .half, .write v⟩ =
      { s.storeSamples i [v.extractLsb' 0 16] with response := some .written } := by
  have hs : 4096 ≤ off.toNat := by omega
  have legal : ∀ d, (Access.mk off .half d).legal = true := fun d =>
    Access.legal_iff.2 (.inl ⟨rfl, hs, show off.toNat % 2 = 0 by omega⟩)
  constructor
  · rw [State.hostAccess_performed (legal _) (.inl idle), State.perform_sram s hs]
    simp only [ho, State.read16_sample]
  · rw [State.hostAccess_performed (legal _) (.inl idle), State.perform_sram s hs]
    simp only [ho, State.storeBytes_low]

/-- A 32-bit access in the sample space while BUSY is 0 reads or stores two samples (20_memory.md R58, R59). -/
theorem State.hostAccess_word {s : State} (idle : s.busy = false) {off : BitVec 13} {k : Nat}
    (ho : off.toNat = 0x1000 + 4 * k) (v : Word) :
    s.hostAccess ⟨off, .word, .read⟩ =
      { s with response := some (.read32 (s.sampleAt (2 * k + 1) ++ s.sampleAt (2 * k))) } ∧
    s.hostAccess ⟨off, .word, .write v⟩ =
      { s.storeSamples (2 * k) [v.extractLsb' 0 16, v.extractLsb' 16 16] with response := some .written } := by
  have hs : 4096 ≤ off.toNat := by omega
  have legal : ∀ d, (Access.mk off .word d).legal = true := fun d =>
    Access.legal_iff.2 (.inr ⟨rfl, show off.toNat % 4 = 0 by omega⟩)
  constructor
  · rw [State.hostAccess_performed (legal _) (.inl idle), State.perform_sram s hs]
    simp only [ho, State.read32_samples]
  · rw [State.hostAccess_performed (legal _) (.inl idle), State.perform_sram s hs]
    simp only [ho, State.storeBytes_all]

/-- Settles O48: the bytes of an access are those of its samples, and a sample store changes no other sample. -/
theorem sampleAccessesReadAndWriteSamples : Obligations.SampleAccessesReadAndWriteSamples := by
  refine fun s v idle => ⟨fun i _ off ho => ?_, fun k _ off ho => ?_⟩
  · obtain ⟨read, write⟩ := State.hostAccess_half idle ho v
    refine ⟨read, write, fun j => ?_⟩
    have stored : (s.hostAccess ⟨off, .half, .write v⟩).sampleAt j =
        (s.storeSamples i [v.extractLsb' 0 16]).sampleAt j := by rw [write]; rfl
    rw [stored, State.sampleAt_storeSamples]
    by_cases hj : j = i
    · subst hj; simp
    · rw [if_neg hj, if_neg (by simp only [List.length_cons, List.length_nil]; omega)]
  · obtain ⟨read, write⟩ := State.hostAccess_word idle ho v
    refine ⟨read, write, fun j => ?_⟩
    have stored : (s.hostAccess ⟨off, .word, .write v⟩).sampleAt j =
        (s.storeSamples (2 * k) [v.extractLsb' 0 16, v.extractLsb' 16 16]).sampleAt j := by rw [write]; rfl
    rw [stored, State.sampleAt_storeSamples]
    by_cases hlow : j = 2 * k
    · subst hlow; simp
    · by_cases hhigh : j = 2 * k + 1
      · subst hhigh; simp
      · rw [if_neg hlow, if_neg hhigh, if_neg (by simp only [List.length_cons, List.length_nil]; omega)]

/-! ### The window -/

/-- Settles O60: an address is in the window exactly when it is BSM_BASE plus an offset under 0x2000. -/
theorem blockDecodesExactlyItsWindow : Obligations.BlockDecodesExactlyItsWindow := by
  refine fun P address => ⟨Nat.mul_mod_right 0x2000 P.baseIndex, fun outside => if_neg (by omega), fun off hoff => ?_⟩
  have inside : P.base ≤ P.base + off ∧ P.base + off < P.base + 0x2000 := by omega
  refine ⟨_, if_pos inside, ?_⟩
  rw [Nat.add_sub_cancel_left, BitVec.toNat_ofNat, Nat.mod_eq_of_lt hoff]

end Sys2Proof.Machine
end

section
/-! SUPPORT. What the sink sees and what its delays do: the bytes of a transaction, a command that waits, the command
delayed and gone on with, and the session while BUSY (20_memory.md R66 to R69). -/

namespace Sys2Proof.Machine

/-! ### The bytes of a transaction -/

/-- The two bytes of sample `k` in a stream of samples, low byte first (20_memory.md R66). -/
theorem flatMap_sampleBytes_getElem? (xs : List Sample) {k : Nat} (h : k < xs.length) :
    (xs.flatMap sampleBytes)[2 * k]? = some (xs[k].extractLsb' 0 8) ∧
      (xs.flatMap sampleBytes)[2 * k + 1]? = some (xs[k].extractLsb' 8 8) := by
  have hlen := flatMap_sampleBytes_length xs
  have stored : ∀ j < (xs.flatMap sampleBytes).length,
      (xs.flatMap sampleBytes)[j]? = some ((xs.flatMap sampleBytes).getD j 0) := fun j hj => by
    rw [List.getD_eq_getElem _ _ hj, List.getElem?_eq_getElem hj]
  obtain ⟨low, high⟩ := flatMap_sampleBytes_get xs k h
  rw [stored (2 * k) (by omega), stored (2 * k + 1) (by omega), low, high]
  exact ⟨rfl, rfl⟩

/-- Settles O59: both kinds of transaction carry the bytes of their samples. -/
theorem sinkPortBytesAreLittleEndian : Obligations.SinkPortBytesAreLittleEndian := by
  intro xs t ht
  have bytes : t.bytes = xs.flatMap sampleBytes := by obtain rfl | rfl := ht <;> rfl
  rw [bytes]
  exact ⟨flatMap_sampleBytes_length xs, fun k h => flatMap_sampleBytes_getElem? xs h⟩

/-! ### A command that waits -/

/-- Settles O20: APPEND's one line issues its transaction, at which the engine waits. -/
theorem withheldAppendWaits : Obligations.WithheldAppendWaits := by
  intro s room withheld
  have waits : appendIn Config.params s = s.wait (.append s.inRegion) [.append .input] := by
    rw [appendIn, if_pos (State.hasRoom_iff.2 room), runActions_withheld [] rfl withheld]
    rfl
  exact ⟨[.append .input], congrArg Host.Outcome.next waits⟩

/-- Whether a command sends to the sink, and by which lines, does not depend on the sink's willingness; one that does not
send completes. -/
theorem exec_sends_or_completes (i : Instr) (s : State) :
    (∃ lines, ∀ o, exec i { s with sinkAccepts := o } =
      .next (runActions Config.params lines { s with sinkAccepts := o })) ∨
    (∀ o, ∃ u : State, exec i { s with sinkAccepts := o } = .next u.complete) := by
  cases i with
  | nop => exact .inr fun _ => ⟨_, rfl⟩
  | clear => exact .inr fun _ => ⟨_, rfl⟩
  | xfade =>
    refine .inr fun o => ?_
    obtain ⟨-, -, e⟩ | ⟨-, e⟩ := execXfade_cases { s with sinkAccepts := o } <;> exact ⟨_, e⟩
  | copy =>
    refine .inr fun o => ?_
    obtain ⟨-, -, e⟩ | ⟨-, e⟩ := execCopy_cases { s with sinkAccepts := o } <;> exact ⟨_, e⟩
  | fill0 =>
    refine .inr fun o => ?_
    obtain ⟨-, e⟩ | ⟨-, e⟩ := execFill0_cases { s with sinkAccepts := o } <;> exact ⟨_, e⟩
  | lpwin =>
    refine .inr fun o => ?_
    obtain ⟨-, e⟩ | ⟨-, e⟩ := lpwin_cases Config.params { s with sinkAccepts := o } <;>
      exact ⟨_, congrArg Host.Outcome.next e⟩
  | append =>
    by_cases room : s.hasRoom 1 = true
    · exact .inl ⟨_, fun _ => congrArg Host.Outcome.next (if_pos room)⟩
    · exact .inr fun _ => ⟨_, congrArg Host.Outcome.next (if_neg room)⟩
  | smooth =>
    by_cases noTail : s.sinkPkts = 0
    · exact .inr fun _ => ⟨_, congrArg Host.Outcome.next (if_pos noTail)⟩
    · by_cases room : s.hasRoom 1 = true
      · exact .inl ⟨_, fun _ => congrArg Host.Outcome.next ((if_neg noTail).trans (if_pos room))⟩
      · exact .inr fun _ => ⟨_, congrArg Host.Outcome.next ((if_neg noTail).trans (if_neg room))⟩
  | arrive =>
    by_cases order : s.outOfOrder = true
    · exact .inr fun _ => ⟨_, congrArg Host.Outcome.next (if_pos order)⟩
    · by_cases room : s.hasRoom (s.gap + 1) = true
      · exact .inl ⟨arriveActions s.gap s.strategy s.seqno,
          fun _ => congrArg Host.Outcome.next ((if_neg order).trans (if_pos room))⟩
      · exact .inr fun _ => ⟨_, congrArg Host.Outcome.next ((if_neg order).trans (if_neg room))⟩

/-- The engine goes on with the lines of a command that waits (20_memory.md R67). -/
theorem engineTurn_waiting {s : State} {lines : List Action} (busy : s.busy = true) (hw : s.work = some lines) :
    engineTurn s = .next (runActions Config.params lines s) := by
  simp [engineTurn, busy, hw]

/-- A run of lines that is delayed waits, and the turn in which the sink no longer delays it gives what the run gives that
is never delayed (20_memory.md R69). -/
theorem runActions_delayed {lines : List Action} {s t : State} {o : Option Nat}
    (ht : runActions Config.params lines { s with sinkAccepts := o } = t) (busy : t.busy = true) :
    t.work.isSome = true ∧ engineTurn { t with sinkAccepts := none } =
      .next (runActions Config.params lines { s with sinkAccepts := none }) := by
  obtain ⟨rest, hw, resumed⟩ := runActions_resume Config.params lines s o (ht ▸ busy)
  rw [ht] at hw resumed
  have turn := engineTurn_waiting (s := { t with sinkAccepts := none }) busy hw
  exact ⟨Option.isSome_iff_exists.2 ⟨rest, hw⟩, turn.trans (congrArg Host.Outcome.next resumed)⟩

/-- Settles O39: a delayed command is a delayed run of its lines, at its first turn and at every later one. -/
theorem delayedCommandHasTheSameResult : Obligations.DelayedCommandHasTheSameResult := by
  refine ⟨fun i s t n _ e busy => ?_, fun t u m tbusy waits e busy => ?_,
    fun s rest released => ⟨fun h => ?_, fun h => ?_⟩, fun s rest =>
      ⟨fun limit h => step_listed h, fun content h => step_listed h⟩⟩
  · obtain ⟨lines, sends⟩ | completes := exec_sends_or_completes i s
    · rw [sends] at e
      cases e
      rw [sends]
      exact runActions_delayed rfl busy
    · obtain ⟨u, e'⟩ := completes (some n)
      rw [e'] at e
      cases e
      cases busy
  · obtain ⟨lines, hw⟩ := Option.isSome_iff_exists.1 waits
    have turn : ∀ o, engineTurn { t with sinkAccepts := o } =
        .next (runActions Config.params lines { t with sinkAccepts := o }) := fun _ => engineTurn_waiting tbusy hw
    rw [turn] at e
    cases e
    rw [turn]
    exact runActions_delayed rfl busy
  · rw [step_listed h]
    exact engineMoves_released released
  · rw [step_unlisted h, engineMoves_released released]

/-! ### The session while BUSY -/

/-- While `rst_n` is 0, and right after its fall, BUSY is 0 (70_reset_and_hazards.md R230). -/
theorem State.Good.assertReset_busy {s : State} (h : s.Good) (kept : Bool) : (s.assertReset kept).busy = false := by
  cases hr : s.rstAsserted with
  | true => rw [State.assertReset_asserted hr, h.held hr]; rfl
  | false => obtain ⟨-, e⟩ | ⟨x, -, -, e⟩ := State.assertReset_cases hr kept <;> (rw [e]; rfl)

/-- Settles O57: of the moves of `step_sessionMove`, those that change the session complete the command or drop it. -/
theorem trackingNeverChangesWhileBusy : Obligations.TrackingNeverChangesWhileBusy := by
  intro s t h e busy
  obtain (same | ⟨-, -, ⟨idle, -⟩, -⟩ | ⟨-, -, ⟨idle, -⟩, -⟩) | ⟨-, kept, rest, hi⟩ := step_sessionMove h e
  · exact same
  · rw [idle] at busy; cases busy
  · rw [idle] at busy; cases busy
  · rw [step_listed hi] at e
    cases e
    have idle := (h.with_world rest s.sink s.sinkAccepts).assertReset_busy kept
    exact absurd (idle.symm.trans busy) (by decide)

end Sys2Proof.Machine
end

section
/-! SUPPORT. The decoder and the encoder: the opcode map, a word out of its bytes, decoding a command's word, and the engine's turn
at an illegal word (30_encoding.md R80 to R84). -/

namespace Sys2Proof

/-! ### The decoder -/

/-- With RSV zero a word decodes by its opcode (30_encoding.md R84). -/
theorem decodeWord_of_rsv_zero {w : Word} (rsv : w.extractLsb' 4 28 = 0#28) :
    decodeWord w = decodeOp (w.extractLsb' 0 4) := if_pos rsv

theorem decodeWord_of_rsv_ne {w : Word} (rsv : w.extractLsb' 4 28 ≠ 0#28) : decodeWord w = .error .reservedBits :=
  if_neg rsv

theorem decodeOp_of_ge : ∀ op : BitVec 4, 0x9#4 ≤ op → decodeOp op = .error .reservedOpcode := by decide

/-- Settles O1: RSV picks the branch of the decoder, and OP the row of its table. -/
theorem decodeFollowsTheOpcodeMap : Obligations.DecodeFollowsTheOpcodeMap := by
  refine fun v => ⟨decodeWord_of_rsv_ne, fun rsv => ?_⟩
  rw [decodeWord_of_rsv_zero rsv]
  refine ⟨?_, ?_, ?_, ?_, ?_, ?_, ?_, ?_, ?_, decodeOp_of_ge _⟩
  all_goals exact fun op => congrArg decodeOp op

/-! ### Words and their bytes -/

/-- The bytes of a word, put together again, are the word (20_memory.md R52). -/
theorem wordOfBytes_extractLsb' (w : Word) :
    wordOfBytes (w.extractLsb' 0 8) (w.extractLsb' 8 8) (w.extractLsb' 16 8) (w.extractLsb' 24 8) = w := by
  unfold wordOfBytes
  rw [BitVec.extractLsb'_append_extractLsb'_eq_extractLsb' (by rfl),
    BitVec.extractLsb'_append_extractLsb'_eq_extractLsb' (by rfl),
    BitVec.extractLsb'_append_extractLsb'_eq_extractLsb' (by rfl)]
  exact BitVec.extractLsb'_eq_self

/-- Decoding the bytes of a word decodes the word, and leaves the bytes that follow. -/
theorem decode_bytesOfWord_append (w : Word) (rest : List Byte) :
    decode (bytesOfWord w ++ rest) = (decodeWord w).map (·, rest) := by
  simp only [bytesOfWord, List.cons_append, List.nil_append, decode, wordOfBytes_extractLsb']
  cases decodeWord w <;> rfl

/-! ### Decode and encode -/

/-- The laws of `Laws.EncodesLegal`, for every command. -/
theorem encodesLegal : ∀ i : Instr, Laws.EncodesLegal.Statement i
  | .nop => Laws.EncodesLegal.nop
  | .arrive => Laws.EncodesLegal.arrive
  | .clear => Laws.EncodesLegal.clear
  | .append => Laws.EncodesLegal.append
  | .smooth => Laws.EncodesLegal.smooth
  | .xfade => Laws.EncodesLegal.xfade
  | .copy => Laws.EncodesLegal.copy
  | .fill0 => Laws.EncodesLegal.fill0
  | .lpwin => Laws.EncodesLegal.lpwin

@[simp] theorem legalWord_encode (i : Instr) : legalWord (encode i) = true := by
  obtain ⟨-, legal, -⟩ := encodesLegal i
  exact legal

@[simp] theorem decodeWord_encode (i : Instr) : decodeWord (encode i) = .ok i := by
  obtain ⟨-, -, decodes⟩ := encodesLegal i
  exact decodes

theorem decodeWord_eq_ok_iff {w : Word} {i : Instr} : decodeWord w = .ok i ↔ w = encode i :=
  ⟨eq_encode_of_decodeWord, fun h => h ▸ decodeWord_encode i⟩

theorem decode_encodeBytes_append (i : Instr) (rest : List Byte) :
    decode (encodeBytes i ++ rest) = .ok (i, rest) := by
  rw [encodeBytes, decode_bytesOfWord_append, decodeWord_encode]
  rfl

/-- Settles O2: only its own word decodes to a command, and a word's bytes decode as the word does. -/
theorem decodeAndEncodeAgree : Obligations.DecodeAndEncodeAgree :=
  ⟨fun _ _ => decodeWord_eq_ok_iff, decode_encodeBytes_append⟩

/-- Settles O3: the legal words are command words, the others break R83 in OP and in RSV. -/
theorem specWordsDecodeAsTheSpecSays : Obligations.SpecWordsDecodeAsTheSpecSays := by
  refine ⟨decode_encodeBytes_append .arrive [], decode_encodeBytes_append .smooth [],
    decode_encodeBytes_append .xfade [], decode_encodeBytes_append .lpwin [], ?_, ?_⟩
  · exact decode_bytesOfWord_append 0x00000009#32 []
  · exact decode_bytesOfWord_append 0x80000001#32 []

/-- No word but a legal one decodes (30_encoding.md R83, R84). -/
theorem exists_error_of_not_legalWord {w : Word} (illegal : legalWord w = false) : ∃ e, decodeWord w = .error e := by
  cases h : decodeWord w with
  | error e => exact ⟨e, rfl⟩
  | ok i =>
    rw [eq_encode_of_decodeWord h, legalWord_encode] at illegal
    cases illegal

end Sys2Proof

namespace Sys2Proof.Machine

/-! ### An illegal word -/

/-- The engine's turn at an illegal word is its command error (30_encoding.md R83). -/
theorem engineTurn_illegal {s : State} {w : Word} (busy : s.busy = true) (hw : s.work = none) (hp : s.pending = some w)
    (illegal : legalWord w = false) : engineTurn s = .next (s.raiseError .illegalCmd) := by
  obtain ⟨e, he⟩ := exists_error_of_not_legalWord illegal
  simp [engineTurn, busy, hw, hp, he]

/-- Settles O6: the step is the engine's turn, listed or not, and that is the command error ILLEGAL_CMD. -/
theorem illegalWordCompletesWithItsCode : Obligations.IllegalWordCompletesWithItsCode := by
  intro s w rest released busy hw hp illegal
  refine ⟨fun listed => ?_, fun unlisted => ?_⟩
  · calc step s = engineMoves { s with inputs := rest } := step_listed listed
      _ = engineTurn { s with inputs := rest } := engineMoves_released released
      _ = .next (State.raiseError { s with inputs := rest } .illegalCmd) := engineTurn_illegal busy hw hp illegal
  · calc step s = engineMoves s := step_unlisted unlisted
      _ = engineTurn s := engineMoves_released released
      _ = .next (s.raiseError .illegalCmd) := engineTurn_illegal busy hw hp illegal

end Sys2Proof.Machine
end

section
/-! SUPPORT. The crossfade sample by sample: its exact value at the two ends, between its two samples, and of an array with
itself (40_buffer_utilities.md R100 to R102). -/

namespace Sys2Proof.Machine

/-! ### The exact value -/

/-- A weighted sum lies between the least and the greatest term taken with the whole weight. -/
theorem weightedSum_between (x y : Int) {p q b : Nat} (h : p + q = b) :
    (b : Int) * min x y ≤ p * x + q * y ∧ p * x + q * y ≤ (b : Int) * max x y := by
  subst h
  push_cast
  rw [add_mul, add_mul]
  constructor
  · gcongr
    · exact min_le_left x y
    · exact min_le_right x y
  · gcongr
    · exact le_max_left x y
    · exact le_max_right x y

/-- The whole weight of a crossfade's first index is on the source. -/
theorem xfExact_zero (d s : Sample) {L : Nat} (h : 2 ≤ L) : xfExact d s L 0 = s.toInt := by
  simpa [xfExact] using tdiv_mul_cancel s.toInt (show 0 < L - 1 by omega)

/-- The whole weight of a crossfade's last index is on the destination. -/
theorem xfExact_last (d s : Sample) {L : Nat} (h : 2 ≤ L) : xfExact d s L (L - 1) = d.toInt := by
  simpa [xfExact] using tdiv_mul_cancel d.toInt (show 0 < L - 1 by omega)

theorem xfExact_self (x : Sample) {L i : Nat} (h2 : 2 ≤ L) (hi : i < L) : xfExact x x L i = x.toInt := by
  have weights : ((L - 1 - i : Nat) : Int) + i = (L - 1 : Nat) := by omega
  rw [xfExact, ← add_mul, weights, tdiv_mul_cancel _ (by omega)]

theorem xfExact_between (d s : Sample) {L i : Nat} (h2 : 2 ≤ L) (hi : i < L) :
    min s.toInt d.toInt ≤ xfExact d s L i ∧ xfExact d s L i ≤ max s.toInt d.toInt :=
  tdiv_mean_between s.toInt d.toInt (L - 1 - i) i (L - 1) (by omega) (by omega)

/-- The exact value lies between two samples, so it is a sample's and `sat16` keeps it (40_buffer_utilities.md R102). -/
theorem sat16_xfExact_toInt (d s : Sample) {L i : Nat} (h2 : 2 ≤ L) (hi : i < L) :
    (sat16 (xfExact d s L i)).toInt = xfExact d s L i := by
  obtain ⟨lower, upper⟩ := xfExact_between d s h2 hi
  have hs := s.le_toInt
  have hd := d.le_toInt
  have hs' := s.toInt_lt
  have hd' := d.toInt_lt
  exact sat16_toInt (by omega) (by omega)

/-! ### The array -/

theorem xf_getElem? (d s : List Sample) {L i : Nat} (h2 : 2 ≤ L) (hi : i < L) :
    (xf d s L)[i]? = some (sat16 (xfExact (nth d i) (nth s i) L i)) := by
  have h : i < (xf d s L).length := by simpa using hi
  rw [List.getElem?_eq_getElem h, xf_getElem d s h2 h]

theorem nth_eq_of_getElem? {w : Nat} {xs : List (BitVec w)} {i : Nat} {x : BitVec w} (h : xs[i]? = some x) :
    nth xs i = x := by
  simp [h]

theorem getElem?_eq_nth {w : Nat} {xs : List (BitVec w)} {i : Nat} (h : i < xs.length) :
    xs[i]? = some (nth xs i) := by
  simp [h]

/-- Settles O27: at each end the whole weight is on one sample; a crossfade of length 1 is its source. -/
theorem crossfadeEndpoints : Obligations.CrossfadeEndpoints := by
  intro dst src L hdst hsrc
  refine ⟨fun h1 => ?_, fun h2 => ?_⟩
  · rw [getElem?_eq_nth (by omega : 0 < src.length)]
    obtain rfl | h2 : L = 1 ∨ 2 ≤ L := by omega
    · rfl
    · rw [xf_getElem? dst src h2 (by omega), xfExact_zero _ _ h2, sat16_of_sample]
  · rw [getElem?_eq_nth (by omega : L - 1 < dst.length), xf_getElem? dst src h2 (by omega), xfExact_last _ _ h2,
      sat16_of_sample]

/-- The crossfade of an array with itself is the array, at every length (40_buffer_utilities.md R102). -/
theorem xf_self (x : List Sample) : xf x x x.length = x := by
  match x with
  | [] => rfl
  | [_] => rfl
  | a :: b :: rest =>
    refine List.ext_getElem (xf_length _ _ _) fun i h hi => ?_
    have h2 : 2 ≤ (a :: b :: rest).length := by simp
    rw [xf_getElem _ _ h2 h, xfExact_self _ h2 hi, sat16_of_sample]
    exact nth_eq_of_getElem? (List.getElem?_eq_getElem hi)

/-- Settles O28: the exact value is a weighted mean, so nothing is left for `sat16` to change. -/
theorem crossfadeNeverSaturates : Obligations.CrossfadeNeverSaturates := by
  refine ⟨fun dst src L i d s h2 hdst _ hd hs => ?_, xf_self⟩
  have hi : i < L := hdst ▸ (List.getElem?_eq_some_iff.1 hd).1
  obtain ⟨lower, upper⟩ := weightedSum_between s.toInt d.toInt (show L - 1 - i + i = L - 1 by omega)
  have stored : (xf dst src L)[i]? = some (sat16 (xfExact d s L i)) := by
    rw [xf_getElem? dst src h2 hi, nth_eq_of_getElem? hd, nth_eq_of_getElem? hs]
  have exact_value := sat16_xfExact_toInt d s h2 hi
  refine ⟨lower, upper, _, stored, exact_value, ?_⟩
  rw [exact_value]
  exact xfExact_between d s h2 hi

end Sys2Proof.Machine
end

section
/-! SUPPORT. The buffer and window commands: their results when their ranges fit, RANGE when one does not, and the bytes and
samples they leave (40_buffer_utilities.md R103 to R107; 41_transform_lowpass.md R126). -/

namespace Sys2Proof.Machine

/-! ### Ranges that fit and ranges that do not -/

theorem fits_eq_false_iff {start n : Nat} : fits start n = false ↔ 2048 < start + n := by
  rw [← Bool.not_eq_true, fits_iff, not_le]

theorem misfit_iff {d u n : Nat} : (fits d n = false ∨ fits u n = false) ↔ 2048 < d + n ∨ 2048 < u + n := by
  rw [fits_eq_false_iff, fits_eq_false_iff]

/-- Settles O21: the range check passes, and the other branch of XFADE is excluded. -/
theorem xfadeStoresTheCrossfade : Obligations.XfadeStoresTheCrossfade := by
  intro s hd hs
  obtain ⟨-, -, e⟩ | ⟨misfit, -⟩ := execXfade_cases s
  · exact e
  · exact absurd (misfit_iff.1 misfit) (not_or.2 ⟨not_lt.2 hd, not_lt.2 hs⟩)

/-- Settles O22: the range check passes, and the other branch of COPY is excluded. -/
theorem copyStoresTheSource : Obligations.CopyStoresTheSource := by
  intro s hd hs
  obtain ⟨-, -, e⟩ | ⟨misfit, -⟩ := execCopy_cases s
  · exact e
  · exact absurd (misfit_iff.1 misfit) (not_or.2 ⟨not_lt.2 hd, not_lt.2 hs⟩)

/-- Settles O23: the range check passes, and the other branch of FILL0 is excluded. -/
theorem fillStoresSilence : Obligations.FillStoresSilence := by
  intro s hd
  obtain ⟨-, e⟩ | ⟨misfit, -⟩ := execFill0_cases s
  · exact e
  · exact absurd (fits_eq_false_iff.1 misfit) (not_lt.2 hd)

theorem execXfade_misfit {s : State} (h : 2048 < s.dst + s.count ∨ 2048 < s.src + s.count) :
    execXfade s = .next (s.raiseError .range) := by
  obtain ⟨hd, hs, -⟩ | ⟨-, e⟩ := execXfade_cases s
  · exact absurd h (not_or.2 ⟨not_lt.2 (fits_iff.1 hd), not_lt.2 (fits_iff.1 hs)⟩)
  · exact e

theorem execCopy_misfit {s : State} (h : 2048 < s.dst + s.count ∨ 2048 < s.src + s.count) :
    execCopy s = .next (s.raiseError .range) := by
  obtain ⟨hd, hs, -⟩ | ⟨-, e⟩ := execCopy_cases s
  · exact absurd h (not_or.2 ⟨not_lt.2 (fits_iff.1 hd), not_lt.2 (fits_iff.1 hs)⟩)
  · exact e

theorem execFill0_misfit {s : State} (h : 2048 < s.dst + s.count) : execFill0 s = .next (s.raiseError .range) := by
  obtain ⟨hd, -⟩ | ⟨-, e⟩ := execFill0_cases s
  · exact absurd h (not_lt.2 (fits_iff.1 hd))
  · exact e

theorem lpwin_misfit (P : Params) {s : State} (h : 2048 < s.dst + 160) : lpwin P s = s.raiseError .range := by
  obtain ⟨hd, -⟩ | ⟨-, e⟩ := lpwin_cases P s
  · exact absurd h (not_lt.2 (fits_iff.1 hd))
  · exact e

/-- Settles O25, command by command. -/
theorem rangesThatDoNotFitRaiseRange : Obligations.RangesThatDoNotFitRaiseRange := fun _ =>
  ⟨fun h => ⟨execXfade_misfit h, execCopy_misfit h⟩, execFill0_misfit,
    fun h => congrArg Host.Outcome.next (lpwin_misfit Config.params h)⟩

/-! ### What the commands leave in the memory -/

theorem execXfade_byteAt {s t : State} (e : execXfade s = .next t) {a : Nat} (h : ¬ inSamples s.dst s.count a) :
    t.byteAt a = s.byteAt a := by
  obtain ⟨-, -, e'⟩ | ⟨-, e'⟩ := execXfade_cases s <;> cases e'.symm.trans e
  · exact s.byteAt_storeSamples_of_not_inSamples (xf_length _ _ _) h
  · rfl

theorem execCopy_byteAt {s t : State} (e : execCopy s = .next t) {a : Nat} (h : ¬ inSamples s.dst s.count a) :
    t.byteAt a = s.byteAt a := by
  obtain ⟨-, -, e'⟩ | ⟨-, e'⟩ := execCopy_cases s <;> cases e'.symm.trans e
  · exact s.byteAt_storeSamples_of_not_inSamples (s.samples_length _ _) h
  · rfl

theorem execFill0_byteAt {s t : State} (e : execFill0 s = .next t) {a : Nat} (h : ¬ inSamples s.dst s.count a) :
    t.byteAt a = s.byteAt a := by
  obtain ⟨-, e'⟩ | ⟨-, e'⟩ := execFill0_cases s <;> cases e'.symm.trans e
  · exact s.byteAt_storeSamples_of_not_inSamples List.length_replicate h
  · rfl

theorem lpwin_byteAt (P : Params) (s : State) {a : Nat} (h : ¬ inSamples s.dst win a) :
    (lpwin P s).byteAt a = s.byteAt a := by
  obtain ⟨-, e⟩ | ⟨-, e⟩ := lpwin_cases P s <;> rw [e]
  · exact (State.byteAt_storeSamples_of_not_inSamples _ Vector.length_toList h).trans rfl
  · rfl

/-- The `k`th stored sample stands `k` places past the start of its range. -/
theorem State.sampleAt_storeSamples_inside (s : State) {start k : Nat} {xs : List Sample} (h : k < xs.length) :
    (s.storeSamples start xs).sampleAt (start + k) = nth xs k := by
  rw [State.sampleAt_storeSamples, if_pos (by omega), Nat.add_sub_cancel_left]

/-- A sample of the destination after COPY is the source's as it stood before, whether the ranges overlap or not
(40_buffer_utilities.md R103). -/
theorem execCopy_sampleAt {s t : State} (e : execCopy s = .next t) (noError : t.errcode ≠ .range) {k : Nat}
    (hk : k < s.count) : t.sampleAt (s.dst + k) = s.sampleAt (s.src + k) := by
  obtain ⟨-, -, e'⟩ | ⟨-, e'⟩ := execCopy_cases s <;> cases e'.symm.trans e
  · calc (s.storeSamples s.dst (s.samples s.src s.count)).sampleAt (s.dst + k)
        = nth (s.samples s.src s.count) k := s.sampleAt_storeSamples_inside (by simpa using hk)
      _ = s.sampleAt (s.src + k) := s.nth_samples hk
  · exact absurd rfl noError

theorem execFill0_sampleAt {s t : State} (e : execFill0 s = .next t) (noError : t.errcode ≠ .range) {k : Nat}
    (hk : k < s.count) : t.sampleAt (s.dst + k) = 0 := by
  obtain ⟨-, e'⟩ | ⟨-, e'⟩ := execFill0_cases s <;> cases e'.symm.trans e
  · calc (s.storeSamples s.dst (List.replicate s.count 0)).sampleAt (s.dst + k)
        = nth (List.replicate s.count 0) k := s.sampleAt_storeSamples_inside (by simpa using hk)
      _ = 0 := by simp [hk]
  · exact absurd rfl noError

/-- A byte before the first or past the last byte of a range is none of the range's. -/
theorem not_inSamples_of_outside {d n a : Nat} (h : a < 0x1000 + 2 * d ∨ 0x1000 + 2 * (d + n) ≤ a) :
    ¬ inSamples d n a := by
  simp only [inSamples, sampleOffset, sramBase]
  omega

/-- Settles O26, by the frame of each command and the samples COPY and FILL0 store. -/
theorem bufferCommandsStoreOnlyTheirRange : Obligations.BufferCommandsStoreOnlyTheirRange := by
  intro s t
  refine ⟨fun e a h => ?_, fun e a h => ?_, fun e a h => ?_, fun e a h => ?_, fun e noError k hk => ?_,
    fun e noError k hk => ?_⟩
  · exact execXfade_byteAt e (not_inSamples_of_outside h)
  · exact execCopy_byteAt e (not_inSamples_of_outside h)
  · exact execFill0_byteAt e (not_inSamples_of_outside h)
  · cases e
    exact lpwin_byteAt Config.params s (not_inSamples_of_outside h)
  · exact execCopy_sampleAt e noError hk
  · exact execFill0_sampleAt e noError hk

end Sys2Proof.Machine
end

section
/-! SUPPORT. The low-pass window: what it keeps for every transform, what it is under the test configurations TC_ID and
TC_REV, and LPWIN's result when its window fits (41_transform_lowpass.md R125 to R129). -/

namespace Sys2Proof.Machine

/-! ### The edges -/

theorem lp_getElem_zero (P : Params) (w : Vector Sample 160) : (lp P w)[0] = w[0] := by
  rw [lp_getElem P w (by decide), if_pos (by decide), xfExact_zero _ _ (by decide), sat16_of_sample]

theorem lp_getElem_last (P : Params) (w : Vector Sample 160) : (lp P w)[79] = (lpFiltered P w)[79] := by
  rw [lp_getElem P w (by decide), if_pos (by decide), xfExact_last _ _ (by decide : 2 ≤ 80), sat16_of_sample]

theorem lp_drop (P : Params) (w : Vector Sample 160) :
    (lp P w).toList.drop 80 = (lpFiltered P w).toList.drop 80 := by
  refine List.ext_getElem (by simp) fun i h _ => ?_
  have hi : 80 + i < 160 := by
    simp only [List.length_drop, Vector.length_toList] at h
    omega
  simpa using lp_getElem P w hi

/-- Settles O30: the crossfade is the raw sample at its first index and the filtered one at its last; past it,
the filtered samples stand. -/
theorem lowpassEdges : Obligations.LowpassEdges := fun P w =>
  ⟨lp_getElem_zero P w, lp_getElem_last P w, lp_drop P w⟩

/-! ### The transforms of the test configurations -/

theorem sat16_coefOf (x : Sample) : sat16 (coefOf x).toInt = x := by
  rw [coefOf, BitVec.toInt_signExtend_of_le (by decide), sat16_of_sample]

theorem fixed_map_getElem {a b n : Nat} (f : BitVec a → BitVec b) (v : Vector (BitVec a) n) {j : Nat} (h : j < n) :
    (fixed n (v.toList.map f))[j] = f v[j] := by
  rw [fixed_getElem _ _ h]
  simp [h]

theorem fixed_reverse_map_getElem {a b n : Nat} (f : BitVec a → BitVec b) (v : Vector (BitVec a) n) {j : Nat}
    (h : j < n) : (fixed n (v.toList.reverse.map f))[j] = f v[n - 1 - j] := by
  rw [fixed_getElem _ _ h]
  simp [h]

/-- A transform pair that loses nothing has the round-trip property, at every tolerance. -/
theorem roundTrip_of_exact {P : Params} (exact160 : ∀ x, P.inv160 (P.fwd160 x) = x)
    (exact320 : ∀ x, P.inv320 (P.fwd320 x) = x) : P.RoundTrip :=
  ⟨fun x j h => by simp [exact160], fun x j h => by simp [exact320]⟩

/-- Widening every element and narrowing it again gives the array back: TC_ID at any length. -/
theorem identity_exact {n : Nat} (x : Vector Sample n) :
    fixed n ((fixed n (x.toList.map coefOf)).toList.map fun c => sat16 c.toInt) = x := by
  refine Vector.ext fun j h => ?_
  rw [fixed_map_getElem _ _ h, fixed_map_getElem _ _ h, sat16_coefOf]

/-- Reversing twice gives the array back: TC_REV at any length. -/
theorem reversal_exact {n : Nat} (x : Vector Sample n) :
    fixed n ((fixed n (x.toList.reverse.map coefOf)).toList.reverse.map fun c => sat16 c.toInt) = x := by
  refine Vector.ext fun j h => ?_
  have back : n - 1 - (n - 1 - j) = j := by omega
  rw [fixed_reverse_map_getElem _ _ h, fixed_reverse_map_getElem _ _ (by omega), sat16_coefOf]
  simp only [back]

theorem tcId_roundTrip (P : Params) : (tcId P).RoundTrip := roundTrip_of_exact identity_exact identity_exact

theorem tcRev_roundTrip (P : Params) : (tcRev P).RoundTrip := roundTrip_of_exact reversal_exact reversal_exact

/-! ### TC_ID -/

/-- Under TC_ID the filter zeroes the window's second half. -/
theorem lpFiltered_tcId_getElem (P : Params) (w : Vector Sample 160) {i : Nat} (h : i < 160) :
    (lpFiltered (tcId P) w)[i] = if i < 80 then w[i] else 0 := by
  have inverse : (lpFiltered (tcId P) w)[i] = sat16 (lowHalf ((tcId P).fwd160 w))[i].toInt := fixed_map_getElem _ _ h
  have forward : ((tcId P).fwd160 w)[i] = coefOf w[i] := fixed_map_getElem _ _ h
  rw [inverse, lowHalf_getElem _ h, forward]
  split
  · exact sat16_coefOf _
  · rfl

/-- Under TC_ID the first half is crossfaded with itself. -/
theorem lp_tcId_getElem (P : Params) (w : Vector Sample 160) {i : Nat} (h : i < 160) :
    (lp (tcId P) w)[i] = if i < 80 then w[i] else 0 := by
  rw [lp_getElem _ w h, lpFiltered_tcId_getElem P w h]
  split_ifs with low
  · rw [xfExact_self _ (by decide) low, sat16_of_sample]
  · rfl

/-- Settles O31, sample by sample. -/
theorem identityConfigurationLowpass : Obligations.IdentityConfigurationLowpass := by
  intro P w
  refine ⟨List.ext_getElem (by simp) fun i h _ => ?_, tcId_roundTrip P, rfl⟩
  have hi : i < 160 := by simpa using h
  rw [Vector.getElem_toList, lp_tcId_getElem P w hi]
  by_cases low : i < 80
  · simp [low]
  · simp [List.getElem_append, low, -List.reduceReplicate]

/-! ### TC_REV -/

/-- Under TC_REV the filter zeroes the window's first half, which stands reversed in the upper half of the spectrum. -/
theorem lpFiltered_tcRev_getElem (P : Params) (w : Vector Sample 160) {i : Nat} (h : i < 160) :
    (lpFiltered (tcRev P) w)[i] = if i < 80 then 0 else w[i] := by
  have inverse : (lpFiltered (tcRev P) w)[i] = sat16 (lowHalf ((tcRev P).fwd160 w))[159 - i].toInt :=
    fixed_reverse_map_getElem _ _ h
  have forward : ((tcRev P).fwd160 w)[159 - i] = coefOf w[159 - (159 - i)] :=
    fixed_reverse_map_getElem _ _ (by omega)
  have back : 159 - (159 - i) = i := by omega
  rw [inverse, lowHalf_getElem _ (by omega), forward]
  by_cases low : i < 80
  · rw [if_neg (by omega), if_pos low]
    rfl
  · rw [if_pos (by omega), if_neg low, sat16_coefOf]
    simp only [back]

/-- A sample crossfaded to silence is the sample with the weight that is left, and `sat16` has nothing to change. -/
theorem sat16_xfExact_silence (x : Sample) {i : Nat} (h : i < 80) :
    sat16 (xfExact 0 x 80 i) = BitVec.ofInt 16 (tdiv (((79 - i : Nat) : Int) * x.toInt) 79) := by
  have weighted : xfExact 0 x 80 i = tdiv (((79 - i : Nat) : Int) * x.toInt) 79 := by simp [xfExact]
  calc sat16 (xfExact 0 x 80 i) = BitVec.ofInt 16 (sat16 (xfExact 0 x 80 i)).toInt := BitVec.ofInt_toInt.symm
    _ = BitVec.ofInt 16 (xfExact 0 x 80 i) := by rw [sat16_xfExact_toInt 0 x (by decide) h]
    _ = _ := by rw [weighted]

/-- Under TC_REV the first half is crossfaded to silence. -/
theorem lp_tcRev_getElem (P : Params) (w : Vector Sample 160) {i : Nat} (h : i < 160) :
    (lp (tcRev P) w)[i] =
      if i < 80 then BitVec.ofInt 16 (tdiv (((79 - i : Nat) : Int) * w[i].toInt) 79) else w[i] := by
  rw [lp_getElem _ w h, lpFiltered_tcRev_getElem P w h]
  split_ifs with low
  · exact sat16_xfExact_silence _ low
  · rfl

/-- Settles O32, sample by sample. -/
theorem reversalConfigurationLowpass : Obligations.ReversalConfigurationLowpass := by
  intro P w
  refine ⟨List.ext_getElem (by simp) fun i h _ => ?_, tcRev_roundTrip P, rfl⟩
  have hi : i < 160 := by simpa using h
  rw [Vector.getElem_toList, lp_tcRev_getElem P w hi]
  by_cases low : i < 80
  · simp [low, hi]
  · have index : 80 + (i - 80) = i := by omega
    simp [List.getElem_append, low, index]

/-! ### LPWIN -/

/-- Settles O24: the range check passes, and the other branch of LPWIN is excluded. -/
theorem lpwinStoresTheLowpass : Obligations.LpwinStoresTheLowpass := by
  intro s hd
  obtain ⟨-, e⟩ | ⟨misfit, -⟩ := lpwin_cases Config.params s
  · exact congrArg Host.Outcome.next e
  · exact absurd (fits_eq_false_iff.1 misfit) (not_lt.2 hd)

end Sys2Proof.Machine
end

section
/-! SUPPORT. The junction smoother's commands: the states that APPEND and SMOOTH run to, their errors, and the part of
the sink that no command changes (42_smoother.md R140 to R148). -/

namespace Sys2Proof.Machine

/-! ### SMOOTH -/

/-- What is left of the sink's willingness after one transaction and then another. -/
theorem State.acceptsAfter_two (s : State) : s.acceptsAfter 2 = (s.acceptsAfter 1).map (· - 1) := by
  rw [State.acceptsAfter, State.acceptsAfter, Option.map_map]
  rfl

/-- The whole state after an amend that the sink accepts (20_memory.md R65). -/
theorem State.sent_amend_eq (s : State) (a : List Sample) :
    s.sent (.amend a) =
      { s.storeSamples tailBase a with
        sink := (Txn.amend a).onSink s.sink
        trace := s.trace ++ [.amend a]
        sinkAccepts := s.acceptsAfter 1 } := rfl

/-- The whole state after an append that the sink accepts (20_memory.md R64). -/
theorem State.sent_append_eq (s : State) (p : List Sample) :
    s.sent (.append p) =
      { s.storeSamples tailBase (p.drop 240) with
        sink := s.sink ++ p
        trace := s.trace ++ [.append p]
        sinkAccepts := s.acceptsAfter 1
        sinkPkts := s.sinkPkts + 1 } := rfl

/-- SMOOTH's state at its append: the junction is filtered, the sink has taken the amend, and IN's head is spliced
(42_smoother.md R140, up to the append). -/
def State.spliced (P : Params) (s : State) : State :=
  ((s.lowpass P (s.junction .input)).sent (.amend (amendData P s.tailRegion s.inRegion))).storeHead .input
    ((smoothed P s.tailRegion s.inRegion).drop half)

/-- The lines before the append run to that state, whatever lines follow. -/
theorem runActions_spliced (P : Params) {s : State} (rest : List Action) (willing : s.willAccept 2) :
    runActions P (.filter .input :: .amend :: .splice .input :: rest) s = runActions P rest (s.spliced P) := by
  rw [runActions_line _ rfl]
  refine (runActions_accepted (n := 1) (a := .amend)
    (s := s.lowpass P (s.junction .input)) (.splice .input :: rest) rfl willing).trans ?_
  rw [runActions_line rest rfl]
  rfl

/-- The filter and the splice use up none of the sink's willingness, the amend one transaction. -/
theorem State.spliced_sinkAccepts (P : Params) (s : State) : (s.spliced P).sinkAccepts = s.acceptsAfter 1 := by
  rw [State.spliced, State.storeHead, State.storeSamples_sinkAccepts, State.sent_sinkAccepts]
  rfl

theorem State.spliced_willAccept (P : Params) {s : State} (willing : s.willAccept 2) : (s.spliced P).willAccept 1 := by
  intro k hk
  rw [s.spliced_sinkAccepts P, ← s.sent_sinkAccepts (.append s.inRegion)] at hk
  exact State.willAccept_after willing _ k hk

/-- IN then holds the smoothed packet: the amend has left it alone, and the splice has replaced its head. -/
theorem State.spliced_inRegion (P : Params) (s : State) :
    (s.spliced P).inRegion = smoothedPacket P s.tailRegion s.inRegion := by
  have amended : ((s.lowpass P (s.junction .input)).sent (.amend (amendData P s.tailRegion s.inRegion))).inRegion =
      s.inRegion :=
    State.sent_samples (s.lowpass P (s.junction .input)) (by rintro xs (e | e) <;> cases e; simp)
      (by rintro xs e; cases e; simp) (.inl (by decide))
  refine (State.buffer_storeHead _ .input (by simp [half])).trans ?_
  simp only [State.buffer, amended]
  rfl

/-- A SMOOTH that the sink accepts at once is two transactions, and completes. -/
theorem smoothIn_of_willing (P : Params) {s : State} (written : s.sinkPkts ≠ 0)
    (room : s.sinkPkts.toNat + 1 ≤ s.sinkCap) (willing : s.willAccept 2) :
    smoothIn P s = ((s.spliced P).sent (.append (smoothedPacket P s.tailRegion s.inRegion))).complete := by
  calc smoothIn P s = runActions P (smoothJ .input) s := by
        rw [smoothIn, if_neg written, if_pos (State.hasRoom_iff.2 room)]
    _ = runActions P [.append .input] (s.spliced P) := runActions_spliced P _ willing
    _ = ((s.spliced P).sent (.append (s.spliced P).inRegion)).complete :=
        runActions_accepted (n := 0) [] rfl (State.spliced_willAccept P willing)
    _ = _ := by rw [s.spliced_inRegion P]

/-- Settles O18: the state of `smoothIn_of_willing`, field by field. -/
theorem smoothSendsTheSmoothedJunction : Obligations.SmoothSendsTheSmoothedJunction := by
  intro s written room willing w r packet
  refine congrArg Host.Outcome.next ((smoothIn_of_willing Config.params written room willing).trans ?_)
  rw [s.acceptsAfter_two, List.append_cons s.trace]
  simp only [State.spliced, State.sent_amend_eq, State.sent_append_eq, State.storeHead, State.lowpass, State.complete]
  rfl

/-! ### The sink's earlier samples -/

/-- From one content of the sink to another nothing changes before the last 80 samples, and a sink of at least 80 is not
shortened (42_smoother.md R142). -/
def SinkGrows (old new : List Sample) : Prop :=
  new.take (old.length - half) = old.take (old.length - half) ∧ (half ≤ old.length → old.length ≤ new.length)

theorem SinkGrows.refl (xs : List Sample) : SinkGrows xs xs := ⟨rfl, fun _ => le_rfl⟩

/-- A sink of under 80 samples has none before its last 80 (log 22). -/
theorem SinkGrows.of_short {old : List Sample} (short : old.length < half) (new : List Sample) : SinkGrows old new := by
  have none : old.length - half = 0 := by omega
  exact ⟨by simp [none], fun h => absurd h (not_le.2 short)⟩

theorem SinkGrows.trans {xs ys zs : List Sample} (h : SinkGrows xs ys) (k : SinkGrows ys zs) : SinkGrows xs zs := by
  obtain ⟨kept, longer⟩ := h
  obtain ⟨kept', longer'⟩ := k
  by_cases short : xs.length < half
  · exact SinkGrows.of_short short zs
  · have hxy : xs.length ≤ ys.length := longer (not_lt.1 short)
    have hyz : ys.length ≤ zs.length := longer' (by omega)
    have earlier := congrArg (List.take (xs.length - half)) kept'
    rw [List.take_take, List.take_take, Nat.min_eq_left (by omega)] at earlier
    exact ⟨earlier.trans kept, fun _ => hxy.trans hyz⟩

/-- An append changes nothing that the sink holds, and an amend its last 80 samples (20_memory.md R64, R65). -/
theorem Txn.onSink_grows {t : Txn} (ht : t.sized) (content : List Sample) : SinkGrows content (t.onSink content) := by
  cases t with
  | append p => exact ⟨List.take_append_of_le_length (Nat.sub_le _ _), fun _ => by simp [Txn.onSink]⟩
  | amend a =>
    have ha : a.length = half := ht
    by_cases short : content.length < half
    · exact SinkGrows.of_short short _
    · have amended : (Txn.amend a).onSink content = content.take (content.length - half) ++ a :=
        if_pos (not_lt.1 short)
      rw [amended]
      refine ⟨List.take_left' (by simp), fun long => ?_⟩
      simp only [List.length_append, List.length_take, ha]
      omega

theorem State.sent_sink (s : State) (t : Txn) : (s.sent t).sink = t.onSink s.sink := by cases t <;> rfl

/-- A line that sends nothing leaves the sink alone. -/
theorem Action.perform_sink (P : Params) (a : Action) (s : State) : (a.perform P s).sink = s.sink := by
  cases a with
  | splice p => cases p <;> rfl
  | _ => rfl

theorem runActions_sinkGrows (P : Params) (lines : List Action) (s : State) :
    SinkGrows s.sink (runActions P lines s).sink :=
  runActions_keeps_of_sized (Q := fun u => SinkGrows s.sink u.sink)
    (fun u t ht h => u.sent_sink t ▸ h.trans (Txn.onSink_grows ht u.sink))
    (fun a _ u h => (a.perform_sink P u).symm ▸ h)
    (fun _ h => h) (fun _ _ _ h => h) (SinkGrows.refl s.sink)

/-- Settles O37: only the lines of a sending command touch the sink, and their run is `runActions_sinkGrows`. -/
theorem noCommandChangesEarlierSinkData : Obligations.NoCommandChangesEarlierSinkData := by
  intro i s t e
  obtain ⟨-, e'⟩ | ⟨-, e'⟩ | ⟨start, xs, -, -, e'⟩ | ⟨w, -, -, e'⟩ | ⟨code, -, -, e'⟩ | ⟨lines, -, -, e'⟩ :=
    exec_cases i s <;> (rw [e'] at e; cases e)
  · exact SinkGrows.refl s.sink
  · exact SinkGrows.refl s.sink
  · exact SinkGrows.refl s.sink
  · exact SinkGrows.refl s.sink
  · exact SinkGrows.refl s.sink
  · exact runActions_sinkGrows _ lines s

/-! ### APPEND, and the errors -/

/-- Settles O17: the state of `appendIn_of_willing`, field by field. -/
theorem appendSendsIn : Obligations.AppendSendsIn := fun _ room willing =>
  congrArg Host.Outcome.next
    ((appendIn_of_willing Config.params room willing).trans (congrArg State.complete (State.sent_append_eq _ _)))

theorem State.hasRoom_eq_false_iff {s : State} {need : Nat} :
    s.hasRoom need = false ↔ s.sinkCap < s.sinkPkts.toNat + need := by
  simp [State.hasRoom]

theorem appendIn_full (P : Params) {s : State} (full : s.sinkCap < s.sinkPkts.toNat + 1) :
    appendIn P s = s.raiseError .sinkFull := by
  simp [appendIn, State.hasRoom_eq_false_iff.2 full]

theorem smoothIn_noTail (P : Params) {s : State} (empty : s.sinkPkts = 0) : smoothIn P s = s.raiseError .noTail :=
  if_pos empty

theorem smoothIn_full (P : Params) {s : State} (written : s.sinkPkts ≠ 0)
    (full : s.sinkCap < s.sinkPkts.toNat + 1) : smoothIn P s = s.raiseError .sinkFull := by
  rw [smoothIn, if_neg written, State.hasRoom_eq_false_iff.2 full]
  rfl

/-- Settles O19: NO_TAIL is checked before the room (60_exceptions.md R204). -/
theorem smootherCommandsRaiseTheirErrors : Obligations.SmootherCommandsRaiseTheirErrors := fun _ =>
  ⟨fun full => congrArg Host.Outcome.next (appendIn_full Config.params full),
    fun empty => congrArg Host.Outcome.next (smoothIn_noTail Config.params empty),
    fun written full => congrArg Host.Outcome.next (smoothIn_full Config.params written full)⟩

end Sys2Proof.Machine
end

section
/-! SUPPORT. The spectral blend: exact, and between its two coefficients (43_concealment.md R168). -/

namespace Sys2Proof.Machine

/-- The exact blend is a weighted mean of its two coefficients, so it lies between them (43_concealment.md R168). -/
theorem blend_between (cp ca : Coef) {g k : Nat} (h : k < g) :
    min cp.toInt ca.toInt ≤ tdiv (((g - k : Nat) : Int) * cp.toInt + ((k : Int) + 1) * ca.toInt) (g + 1) ∧
      tdiv (((g - k : Nat) : Int) * cp.toInt + ((k : Int) + 1) * ca.toInt) (g + 1) ≤ max cp.toInt ca.toInt :=
  tdiv_mean_between cp.toInt ca.toInt (g - k) (k + 1) (g + 1) (by omega) (by omega)

/-- Between two coefficients there is nothing for `sat32` to change. -/
theorem blendCoef_toInt (cp ca : Coef) {g k : Nat} (h : k < g) :
    (blendCoef g k cp ca).toInt =
      tdiv (((g - k : Nat) : Int) * cp.toInt + ((k : Int) + 1) * ca.toInt) (g + 1) := by
  obtain ⟨lower, upper⟩ := blend_between cp ca h
  have hp := cp.le_toInt
  have ha := ca.le_toInt
  have hp' := cp.toInt_lt
  have ha' := ca.toInt_lt
  exact sat32_toInt (by omega) (by omega)

/-- Settles O29: the blend is the exact weighted mean, unsaturated. -/
theorem blendLiesBetweenItsSpectra : Obligations.BlendLiesBetweenItsSpectra := by
  intro g k cp ca h
  rw [blendCoef_toInt cp ca h]
  exact ⟨rfl, blend_between cp ca h⟩

/-- A synthesized packet with its blends written out, unsaturated (43_concealment.md R168). -/
theorem spectralPacket_eq (P : Params) {g k : Nat} (h : k < g) (prev arrival : List Sample) :
    spectralPacket P g k prev arrival =
      (P.inv320 (fixed 320 ((List.range 320).map fun j =>
        let cp := nth (P.fwd320 (fixed 320 prev)).toList j
        let ca := nth (P.fwd320 (fixed 320 arrival)).toList j
        BitVec.ofInt 32 (tdiv (((g - k : Nat) : Int) * cp.toInt + ((k : Int) + 1) * ca.toInt) (g + 1))))).toList := by
  simp only [spectralPacket, blendSpectra, ← blendCoef_toInt _ _ h, BitVec.ofInt_toInt]

end Sys2Proof.Machine
end

section
/-! SUPPORT. What the lines of the gap fills send while the sink is willing: the fills that append packets as they are,
and the chains of smoothed packets (43_concealment.md R162 to R168). -/

namespace Sys2Proof.Machine

/-! ### The sink after lines that send -/

/-- The record after lines that send says what the sink has taken. -/
theorem Sends.sink {P : Params} {l : List Action} {s u : State} {x : List Txn} (h : Sends P l s u x) :
    u.sink = x.foldl (fun content txn => txn.onSink content) s.sink := by
  obtain ⟨y, trace, sink⟩ := runActions_sink P (l ++ []) s
  rw [h.runs] at trace sink
  have same : y = x := List.append_cancel_left (trace.symm.trans h.trace)
  rw [← same]
  exact sink

theorem Sends.sameHostSide {P : Params} {l : List Action} {s u : State} {x : List Txn} (h : Sends P l s u x) :
    s.SameHostSide u.complete := by
  have same := runActions_sameHostSide P (l ++ []) s
  rwa [h.runs] at same

@[simp] theorem Txn.onSink_append (p content : List Sample) : (Txn.append p).onSink content = content ++ p := rfl

theorem foldl_onSink_appends (packets : List (List Sample)) (content : List Sample) :
    (packets.map Txn.append).foldl (fun content txn => txn.onSink content) content = content ++ packets.flatten := by
  induction packets generalizing content with
  | nil => simp
  | cons p packets ih => simp [ih]

theorem State.willAccept_mono {s : State} {m n : Nat} (willing : s.willAccept n) (h : m ≤ n) : s.willAccept m :=
  fun k hk => h.trans (willing k hk)

/-! ### Lines that leave IN alone -/

/-- Lines that send and leave IN as it is, so that the append of IN may follow them. -/
structure SendsKeepingIn (P : Params) (lines : List Action) (s u : State) (txns : List Txn) : Prop
    extends Sends P lines s u txns where
  input : u.inRegion = s.inRegion

theorem SendsKeepingIn.append {P : Params} {l m : List Action} {s u v : State} {x y : List Txn}
    (h : SendsKeepingIn P l s u x) (k : SendsKeepingIn P m u v y) : SendsKeepingIn P (l ++ m) s v (x ++ y) :=
  ⟨h.toSends.append k.toSends, k.input.trans h.input⟩

theorem sendsKeepingIn_append (P : Params) {s : State} (src : Source) (willing : s.willAccept 1) :
    ∃ u, SendsKeepingIn P [.append src] s u [.append (s.packet P src)] := by
  obtain ⟨sends, input, -⟩ := sends_append P s src willing
  exact ⟨_, sends, input⟩

theorem sendsKeepingIn_silence (P : Params) {s : State} {n : Nat} (willing : s.willAccept n) :
    ∃ u, SendsKeepingIn P (silencePackets n) s u (List.replicate n (.append silentPacket)) := by
  obtain ⟨u, sends, input, -, -⟩ := sends_silence P s n willing
  exact ⟨u, sends, input⟩

/-- After lines that leave IN alone the append of IN sends the arrival. -/
theorem SendsKeepingIn.appendInput {P : Params} {l : List Action} {s u : State} {x : List Txn}
    (h : SendsKeepingIn P l s u x) (willing : s.willAccept (x.length + 1)) :
    ∃ v, SendsKeepingIn P (l ++ [.append .input]) s v (x ++ [.append s.inRegion]) := by
  obtain ⟨v, appended⟩ := sendsKeepingIn_append P .input (h.toSends.willAccept willing)
  rw [State.packet, h.input] at appended
  exact ⟨v, h.append appended⟩

/-! ### The fills that do not smooth -/

theorem sends_repeatPrev (P : Params) {s : State} {g : Nat} (gap : 1 ≤ g) (willing : s.willAccept g) :
    ∃ u, SendsKeepingIn P (repeatPrev g) s u
      (.append s.prevRegion :: List.replicate (g - 1) (.append silentPacket)) := by
  obtain ⟨u, first⟩ := sendsKeepingIn_append P .previous (s.willAccept_mono willing gap)
  have left : u.willAccept (g - 1) :=
    first.toSends.willAccept (s.willAccept_mono willing (by simp only [List.length_singleton]; omega))
  obtain ⟨v, silent⟩ := sendsKeepingIn_silence P left
  exact ⟨v, first.append silent⟩

theorem sends_repeatNext (P : Params) {s : State} {g : Nat} (gap : 1 ≤ g) (willing : s.willAccept g) :
    ∃ u, SendsKeepingIn P (repeatNext g) s u
      (List.replicate (g - 1) (.append silentPacket) ++ [.append s.inRegion]) := by
  obtain ⟨u, silent⟩ := sendsKeepingIn_silence P (s.willAccept_mono willing (Nat.sub_le g 1))
  exact silent.appendInput (by rwa [List.length_replicate, Nat.sub_add_cancel gap])

/-- A blend of the two spectra that stand in scratch, inverted and appended: the spectra stay. -/
theorem sends_blend (P : Params) (g k : Nat) {s : State} (willing : s.willAccept 1) :
    ∃ u, SendsKeepingIn P [.blend g k, .append .spectrum] s u
        [.append (P.inv320 (blendSpectra g k s.scratchCP s.scratchCA)).toList] ∧
      u.scratchCP = s.scratchCP ∧ u.scratchCA = s.scratchCA := by
  have blended : Sends P [.blend g k] s (Action.perform P s (.blend g k)) [] := Sends.line rfl rfl rfl rfl
  obtain ⟨appended, input, -⟩ := sends_append P (Action.perform P s (.blend g k)) .spectrum willing
  exact ⟨_, ⟨blended.append appended, input⟩, State.sent_scratchCP _ _, State.sent_scratchCA _ _⟩

theorem sends_blends (P : Params) (g : Nat) {s : State} {ks : List Nat} (willing : s.willAccept ks.length) :
    ∃ u, SendsKeepingIn P (ks.flatMap fun k => [.blend g k, .append .spectrum]) s u
      (ks.map fun k => .append (P.inv320 (blendSpectra g k s.scratchCP s.scratchCA)).toList) := by
  induction ks generalizing s with
  | nil => exact ⟨s, Sends.nil P s, rfl⟩
  | cons k ks ih =>
    obtain ⟨u, blend, cp, ca⟩ := sends_blend P g k (s.willAccept_mono willing (by simp))
    obtain ⟨v, blends⟩ := ih (blend.toSends.willAccept (by rwa [List.length_cons, Nat.add_comm] at willing))
    rw [cp, ca] at blends
    exact ⟨v, blend.append blends⟩

/-- SPECTRAL: the two spectra are taken before the first blend is appended (43_concealment.md R168). -/
theorem sends_spectral (P : Params) {s : State} {g : Nat} (willing : s.willAccept g) :
    ∃ u, SendsKeepingIn P (spectral g) s u
      ((List.range g).map fun k => .append (spectralPacket P g k s.prevRegion s.inRegion)) := by
  have analysed : SendsKeepingIn P [.analyse] s (Action.perform P s .analyse) [] := ⟨Sends.line rfl rfl rfl rfl, rfl⟩
  obtain ⟨u, blends⟩ := sends_blends P g (s := Action.perform P s .analyse) (ks := List.range g)
    (by rwa [List.length_range])
  exact ⟨u, analysed.append blends⟩

/-- The packets that fill a gap of `g` without smoothing; RepeatBoth smooths all of its own, and has none here
(43_concealment.md R162 to R168). -/
def fillPackets (P : Params) (g : Nat) (prev arrival : List Sample) : Strategy → List (List Sample)
  | .silence => List.replicate g silentPacket
  | .repeatPrevious => prev :: List.replicate (g - 1) silentPacket
  | .repeatNext => List.replicate (g - 1) silentPacket ++ [arrival]
  | .repeatBoth => []
  | .spectralInterpolate => (List.range g).map fun k => spectralPacket P g k prev arrival

theorem fillPackets_length (P : Params) {g : Nat} (gap : 1 ≤ g) (prev arrival : List Sample) {st : Strategy}
    (unsmoothed : st ≠ .repeatBoth) : (fillPackets P g prev arrival st).length = g := by
  cases st with
  | silence => exact List.length_replicate
  | repeatPrevious => simp [fillPackets, gap]
  | repeatNext => simp [fillPackets, gap]
  | repeatBoth => exact absurd rfl unsmoothed
  | spectralInterpolate => simp [fillPackets]

/-- Without smoothing the transactions of an arrival are the appends of these packets and of IN. -/
theorem arrivalTxns_unsmoothed (P : Params) {g : Nat} (gap : 1 ≤ g) (tail prev arrival : List Sample) {st : Strategy}
    (unsmoothed : st ≠ .repeatBoth) :
    arrivalTxns P g st tail prev arrival = (fillPackets P g prev arrival st ++ [arrival]).map .append := by
  obtain ⟨n, rfl⟩ := Nat.exists_eq_add_of_le' gap
  cases st with
  | repeatBoth => exact absurd rfl unsmoothed
  | _ => simp [arrivalTxns, fillPackets]

/-- A fill that does not smooth sends its packets and leaves IN as it is. -/
theorem sends_fillGap (P : Params) {s : State} {g : Nat} {st : Strategy} (gap : 1 ≤ g) (unsmoothed : st ≠ .repeatBoth)
    (willing : s.willAccept g) :
    ∃ u, SendsKeepingIn P (fillGap g st).1 s u ((fillPackets P g s.prevRegion s.inRegion st).map .append) := by
  cases st with
  | silence => simpa [fillGap, silenceFill, fillPackets] using sendsKeepingIn_silence P willing
  | repeatPrevious => simpa [fillGap, fillPackets] using sends_repeatPrev P gap willing
  | repeatNext => simpa [fillGap, fillPackets] using sends_repeatNext P gap willing
  | repeatBoth => exact absurd rfl unsmoothed
  | spectralInterpolate => simpa [fillGap, fillPackets, Function.comp_def] using sends_spectral P willing

/-! ### The fills that smooth -/

theorem smoothedChain_cons (P : Params) (tail p : List Sample) (rest : List (List Sample)) :
    smoothedChain P tail (p :: rest) =
      smoothedChain P tail [p] ++ smoothedChain P ((smoothedPacket P tail p).drop 240) rest := rfl

@[simp] theorem smoothedChain_length (P : Params) (tail : List Sample) (packets : List (List Sample)) :
    (smoothedChain P tail packets).length = 2 * packets.length := by
  induction packets generalizing tail with
  | nil => rfl
  | cons p packets ih => simp only [smoothedChain, List.length_cons, ih]; omega

/-- SMOOTHJ of the packet in S sends its part of a chain, after which TAIL is the tail for the next part. -/
theorem sends_smoothScratch (P : Params) {s : State} (willing : s.willAccept 2) :
    ∃ u, SendsKeepingIn P (smoothJ .scratch) s u (smoothedChain P s.tailRegion [s.scratchS.toList]) ∧
      u.tailRegion = (smoothedPacket P s.tailRegion s.scratchS.toList).drop 240 := by
  obtain ⟨u, sends, tail, -, input⟩ := sends_smoothJ P s .scratch willing
  exact ⟨u, ⟨sends, input rfl⟩, tail⟩

/-- The end of a chain: SMOOTHJ of IN. -/
theorem sends_smoothInput (P : Params) {s : State} (willing : s.willAccept 2) :
    ∃ u, Sends P (smoothJ .input) s u (smoothedChain P s.tailRegion [s.inRegion]) := by
  obtain ⟨u, sends, -⟩ := sends_smoothJ P s .input willing
  exact ⟨u, sends⟩

/-- A source outside the scratch buffers: SMOOTHJ of S leaves its packet as it is. -/
def Source.isFiller : Source → Bool
  | .input => true
  | .previous => true
  | .silence => true
  | .scratch => false
  | .spectrum => false

theorem State.packet_congr (P : Params) {s u : State} {src : Source} (filler : src.isFiller = true)
    (prev : u.prevRegion = s.prevRegion) (input : u.inRegion = s.inRegion) : u.packet P src = s.packet P src := by
  cases src with
  | input => exact input
  | previous => exact prev
  | silence => rfl
  | scratch => cases filler
  | spectrum => cases filler

theorem sends_smoothFiller (P : Params) {s : State} (src : Source) (willing : s.willAccept 2) :
    ∃ u, SendsKeepingIn P (smoothFiller src) s u (smoothedChain P s.tailRegion [s.packet P src]) ∧
      u.tailRegion = (smoothedPacket P s.tailRegion (s.packet P src)).drop 240 := by
  have loaded : SendsKeepingIn P [.loadScratch src] s (Action.perform P s (.loadScratch src)) [] :=
    ⟨Sends.line rfl rfl rfl rfl, rfl⟩
  have scratch : (Action.perform P s (.loadScratch src)).scratchS.toList = s.packet P src :=
    fixed_toList (s.packet_length P src)
  obtain ⟨u, smooth, tail⟩ := sends_smoothScratch P (s := Action.perform P s (.loadScratch src)) willing
  rw [scratch] at smooth tail
  exact ⟨u, loaded.append smooth, tail⟩

/-- Fillers smoothed one after the other and then IN: each finds the tail that the packet before it has left
(43_concealment.md R167). -/
theorem sends_smoothedChain (P : Params) {s : State} {srcs : List Source}
    (fillers : ∀ src ∈ srcs, src.isFiller = true) (willing : s.willAccept (2 * (srcs.length + 1))) :
    ∃ u, Sends P (srcs.flatMap smoothFiller ++ smoothJ .input) s u
      (smoothedChain P s.tailRegion (srcs.map (s.packet P) ++ [s.inRegion])) := by
  induction srcs generalizing s with
  | nil => exact sends_smoothInput P willing
  | cons src srcs ih =>
    obtain ⟨-, fillers⟩ := List.forall_mem_cons.1 fillers
    obtain ⟨u, first, tail⟩ := sends_smoothFiller P src (s.willAccept_mono willing (by omega))
    have left : u.willAccept (2 * (srcs.length + 1)) :=
      first.toSends.willAccept (s.willAccept_mono willing (by simp; omega))
    obtain ⟨v, later⟩ := ih fillers left
    have packets : srcs.map (u.packet P) = srcs.map (s.packet P) :=
      List.map_congr_left fun src h => State.packet_congr P (fillers src h) first.toSends.prev first.input
    rw [packets, first.input, tail] at later
    rw [List.flatMap_cons, List.append_assoc, List.map_cons, List.cons_append, smoothedChain_cons]
    exact ⟨v, first.toSends.append later⟩

/-- The fillers of REPEAT_BOTH_N for a gap of `n + 2` (43_concealment.md R167). -/
def repeatBothFillers (n : Nat) : List Source := .previous :: List.replicate n .silence ++ [.input]

theorem repeatBothMany_eq (n : Nat) :
    repeatBothMany (n + 2) = (repeatBothFillers n).flatMap smoothFiller ++ smoothJ .input := by
  simp [repeatBothMany, repeatBothFillers, List.flatMap_replicate]

theorem isFiller_of_mem_repeatBothFillers {n : Nat} {src : Source} (h : src ∈ repeatBothFillers n) :
    src.isFiller = true := by
  simp only [repeatBothFillers, List.cons_append, List.mem_cons, List.mem_append, List.mem_replicate,
    List.not_mem_nil, or_false] at h
  obtain rfl | ⟨-, rfl⟩ | rfl := h <;> rfl

theorem sends_repeatBothMany (P : Params) {s : State} {n : Nat} (willing : s.willAccept (2 * (n + 3))) :
    ∃ u, Sends P (repeatBothMany (n + 2)) s u
      (smoothedChain P s.tailRegion (s.prevRegion :: List.replicate n silentPacket ++ [s.inRegion, s.inRegion])) := by
  obtain ⟨u, sends⟩ := sends_smoothedChain P (s := s) (fun _ => isFiller_of_mem_repeatBothFillers)
    (by simpa [repeatBothFillers] using willing)
  rw [← repeatBothMany_eq] at sends
  exact ⟨u, by simpa [repeatBothFillers, State.packet] using sends⟩

/-- REPEAT_BOTH_1: the bridging packet is smoothed from S, and then IN (43_concealment.md R166). -/
theorem sends_repeatBothOne (P : Params) {s : State} (willing : s.willAccept 4) :
    ∃ u, Sends P repeatBothOne s u
      (smoothedChain P s.tailRegion [bridgePacket P s.prevRegion s.inRegion, s.inRegion]) := by
  have bridged : SendsKeepingIn P [.bridge] s (s.makeBridge P) [] := ⟨Sends.line rfl rfl rfl rfl, rfl⟩
  have scratch : (s.makeBridge P).scratchS.toList = bridgePacket P s.prevRegion s.inRegion :=
    fixed_toList (by simp [State.bridgeRaw, State.prevRegion, State.inRegion, pkt])
  obtain ⟨u, smooth, tail⟩ := sends_smoothScratch P (s := s.makeBridge P) (s.willAccept_mono willing (by decide))
  rw [scratch] at smooth tail
  have first := bridged.append smooth
  obtain ⟨v, last⟩ := sends_smoothInput P (first.toSends.willAccept (n := 2) willing)
  rw [tail, first.input] at last
  exact ⟨v, first.toSends.append last⟩

end Sys2Proof.Machine
end

section
/-! SUPPORT. What ARRIVE sends while the sink is willing, for every gap and strategy, and what the sink then holds
(43_concealment.md R170). -/

namespace Sys2Proof.Machine

/-! ### ARRIVE's transactions -/

/-- The lines of an ARRIVE before the one that retains the arrival (44_receiver.md R180). -/
def arrivalLines (g : Nat) (st : Strategy) : List Action :=
  let fill := if 1 ≤ g then fillGap g st else ([], false)
  fill.1 ++ if fill.2 then [] else [.append .input]

theorem arriveActions_eq_arrivalLines (g : Nat) (st : Strategy) (seqno : Word) :
    arriveActions g st seqno = arrivalLines g st ++ [.retain seqno (BitVec.ofNat 32 g)] := rfl

/-- Unless it smooths, an ARRIVE appends IN after the lines of its fill. -/
theorem arrivalLines_unsmoothed {g : Nat} (gap : 1 ≤ g) {st : Strategy} (unsmoothed : st ≠ .repeatBoth) :
    arrivalLines g st = (fillGap g st).1 ++ [.append .input] := by
  rw [arrivalLines, if_pos gap]
  cases st with
  | repeatBoth => exact absurd rfl unsmoothed
  | _ => rfl

theorem arrivalLines_repeatBothOne : arrivalLines 1 .repeatBoth = repeatBothOne := rfl

theorem arrivalLines_repeatBothMany (n : Nat) : arrivalLines (n + 2) .repeatBoth = repeatBothMany (n + 2) := by
  simp [arrivalLines, fillGap]

/-- ARRIVE's lines under RepeatBoth send a chain of smoothed packets (43_concealment.md R165 to R167). -/
theorem sends_arrivalLines_repeatBoth (P : Params) {s : State} {g : Nat} (gap : 1 ≤ g)
    (willing : s.willAccept (arrivalTxns P g .repeatBoth s.tailRegion s.prevRegion s.inRegion).length) :
    ∃ u, Sends P (arrivalLines g .repeatBoth) s u
      (arrivalTxns P g .repeatBoth s.tailRegion s.prevRegion s.inRegion) := by
  match g with
  | 1 =>
    rw [arrivalLines_repeatBothOne]
    exact sends_repeatBothOne P willing
  | n + 2 =>
    rw [arrivalLines_repeatBothMany]
    exact sends_repeatBothMany P (by simpa [arrivalTxns] using willing)

/-- ARRIVE's lines send the transactions of its gap and strategy (43_concealment.md R170). -/
theorem sends_arrivalLines (P : Params) {s : State} (g : Nat) (st : Strategy)
    (willing : s.willAccept (arrivalTxns P g st s.tailRegion s.prevRegion s.inRegion).length) :
    ∃ u, Sends P (arrivalLines g st) s u (arrivalTxns P g st s.tailRegion s.prevRegion s.inRegion) := by
  obtain rfl | gap := Nat.eq_zero_or_pos g
  · obtain ⟨u, arrival⟩ := sendsKeepingIn_append P .input willing
    exact ⟨u, arrival.toSends⟩
  by_cases smoothing : st = .repeatBoth
  · subst smoothing
    exact sends_arrivalLines_repeatBoth P gap willing
  · rw [arrivalTxns_unsmoothed P gap _ _ _ smoothing, List.map_append] at willing ⊢
    rw [arrivalLines_unsmoothed gap smoothing]
    have packets := fillPackets_length P gap s.prevRegion s.inRegion smoothing
    obtain ⟨u, fill⟩ := sends_fillGap P gap smoothing (s.willAccept_mono willing (by simp [packets]))
    obtain ⟨v, all⟩ := fill.appendInput (by simpa using willing)
    exact ⟨v, all.toSends⟩

/-- ARRIVE in order and with room runs the lines of its gap and strategy (44_receiver.md R180). -/
theorem arrive_of_room (P : Params) {s : State} (order : s.outOfOrder = false)
    (room : s.sinkPkts.toNat + (s.gap + 1) ≤ s.sinkCap) :
    arrive P s = runActions P (arriveActions s.gap s.strategy s.seqno) s := by
  rw [arrive, order, State.hasRoom_iff.2 room]
  rfl

/-- An ARRIVE in order, with room, whose transactions the sink takes at once, sends them, retains the arrival and
completes. -/
theorem arrive_of_willing (P : Params) {s : State} (order : s.outOfOrder = false)
    (room : s.sinkPkts.toNat + (s.gap + 1) ≤ s.sinkCap)
    (willing : s.willAccept (arrivalTxns P s.gap s.strategy s.tailRegion s.prevRegion s.inRegion).length) :
    ∃ u, Sends P (arrivalLines s.gap s.strategy) s u
        (arrivalTxns P s.gap s.strategy s.tailRegion s.prevRegion s.inRegion) ∧
      arrive P s = (u.retain s.seqno (BitVec.ofNat 32 s.gap)).complete := by
  obtain ⟨u, sends⟩ := sends_arrivalLines P s.gap s.strategy willing
  refine ⟨u, sends, ?_⟩
  rw [arrive_of_room P order room, arriveActions_eq_arrivalLines, sends.runs]
  rfl

/-- Settles O12: the state to which the lines of `sends_arrivalLines` run, with the arrival retained. -/
theorem arriveSendsItsStrategysTransactions : Obligations.ArriveSendsItsStrategysTransactions := by
  intro s order room txns willing
  obtain ⟨u, sends, e⟩ := arrive_of_willing Config.params order room willing
  exact ⟨_, congrArg Host.Outcome.next e, rfl, rfl, sends.sameHostSide.err, sends.trace, sends.sink, sends.accepts⟩

/-- What a gap puts on the sink when the strategy does not smooth: its packets, and IN. -/
theorem arrive_sink_unsmoothed (P : Params) {s : State} (order : s.outOfOrder = false) (gap : 1 ≤ s.gap)
    (room : s.sinkPkts.toNat + (s.gap + 1) ≤ s.sinkCap) (willing : s.willAccept (s.gap + 1))
    (unsmoothed : s.strategy ≠ .repeatBoth) :
    (arrive P s).sink =
      s.sink ++ (fillPackets P s.gap s.prevRegion s.inRegion s.strategy).flatten ++ s.inRegion := by
  have txns := arrivalTxns_unsmoothed P gap s.tailRegion s.prevRegion s.inRegion unsmoothed
  have packets := fillPackets_length P gap s.prevRegion s.inRegion unsmoothed
  obtain ⟨u, sends, e⟩ := arrive_of_willing P order room (by simpa [txns, packets] using willing)
  calc (arrive P s).sink = u.sink := by rw [e]; rfl
    _ = s.sink ++ (fillPackets P s.gap s.prevRegion s.inRegion s.strategy ++ [s.inRegion]).flatten := by
      rw [sends.sink, txns, foldl_onSink_appends]
    _ = _ := by simp

/-! ### The fills on the sink -/

theorem flatten_replicate_silentPacket (n : Nat) :
    (List.replicate n silentPacket).flatten = List.replicate (320 * n) 0 := by
  rw [silentPacket, List.flatten_replicate_replicate, Nat.mul_comm]

/-- Settles O13: the packets of each strategy, one after the other. -/
theorem silenceAndRepeatFills : Obligations.SilenceAndRepeatFills := by
  intro s order gap room willing
  have sink := arrive_sink_unsmoothed Config.params order gap room willing
  refine ⟨_, rfl, fun st => ?_, fun st => ?_, fun st => ?_⟩
  · rw [sink (by simp [st]), st, fillPackets, flatten_replicate_silentPacket]
  · rw [sink (by simp [st]), st, fillPackets, List.flatten_cons, flatten_replicate_silentPacket,
      ← List.append_assoc s.sink]
  · rw [sink (by simp [st]), st, fillPackets, List.flatten_append, flatten_replicate_silentPacket,
      List.flatten_singleton, ← List.append_assoc s.sink]

/-- Where packets of `n` samples each are laid one after the other, packet `k` starts at sample `n * k`. -/
theorem nth_flatten_append {n : Nat} {packets : List (List Sample)} (sized : ∀ p ∈ packets, p.length = n) {k j : Nat}
    (hk : k < packets.length) (hj : j < n) (later : List Sample) :
    nth (packets.flatten ++ later) (n * k + j) = nth packets[k] j := by
  induction packets generalizing k with
  | nil => cases hk
  | cons p packets ih =>
    obtain ⟨hp, sized⟩ := List.forall_mem_cons.1 sized
    rw [List.flatten_cons, List.append_assoc]
    cases k with
    | zero =>
      rw [Nat.mul_zero, Nat.zero_add]
      exact List.getD_append _ _ _ _ (by omega)
    | succ k =>
      have past : n * (k + 1) + j - p.length = n * k + j := by rw [hp, Nat.mul_succ]; omega
      have behind : p.length ≤ n * (k + 1) + j := by rw [hp, Nat.mul_succ]; omega
      refine (List.getD_append_right _ _ _ _ behind).trans ?_
      rw [past]
      exact ih sized (Nat.lt_of_succ_lt_succ hk)

/-- Settles O14: the blends are exact, and between equal packets each is that packet up to the round trip. -/
theorem spectralFillsWithBlends : Obligations.SpectralFillsWithBlends := by
  intro s order st gap room willing
  have sink := arrive_sink_unsmoothed Config.params order gap room willing (by simp [st])
  rw [st, fillPackets] at sink
  refine ⟨_, rfl, sink.trans ?_, fun same k hk j hj => ?_⟩
  · rw [← List.flatMap_def]
    congr 2
    exact List.flatMap_congr fun k hk => spectralPacket_eq Config.params (List.mem_range.1 hk) _ _
  · have sample : nth (arrive Config.params s).sink (s.sink.length + 320 * k + j) =
        nth (spectralPacket Config.params s.gap k s.inRegion s.inRegion) j := by
      rw [sink, same, List.append_assoc, Nat.add_assoc]
      refine (List.getD_append_right _ _ _ _ (Nat.le_add_right _ _)).trans ?_
      rw [Nat.add_sub_cancel_left]
      refine (nth_flatten_append (n := 320) (by simp [spectralPacket]) (by simpa using hk) hj _).trans ?_
      simp
    rw [sample]
    exact spectralPacket_self Config.params_roundTrip hk (s.samples_length _ _) hj

end Sys2Proof.Machine
end

section
/-! SUPPORT. The number of packets that a run of lines appends, whatever the sink delays, and that of ARRIVE
(43_concealment.md R169). -/

namespace Sys2Proof.Machine

/-- From `s` to `u` the sink has taken `n` packets: SINK_PKTS counts them, and a sink of at least 80 samples is longer by
320 samples for each (20_memory.md R64, R65). -/
structure State.Appends (n : Nat) (s u : State) : Prop where
  counted : u.sinkPkts.toNat = s.sinkPkts.toNat + n
  lengthened : half ≤ s.sink.length → u.sink.length = s.sink.length + 320 * n

theorem State.Appends.trans {m n : Nat} {s u v : State} (h : s.Appends m u) (k : u.Appends n v) :
    s.Appends (m + n) v where
  counted := by rw [k.counted, h.counted, Nat.add_assoc]
  lengthened long := by
    have hu := h.lengthened long
    rw [k.lengthened (by omega), hu]
    omega

/-- A line that sends nothing appends nothing. -/
theorem Action.perform_appends {P : Params} {s : State} {a : Action} (h : a.txn P s = none) :
    s.Appends (if a.appends then 1 else 0) (a.perform P s) := by
  obtain ⟨-, -, -, pkts⟩ := a.perform_keeps P s
  rw [Action.appends_of_txn_none h]
  exact ⟨congrArg BitVec.toNat pkts, fun _ => congrArg List.length (a.perform_sink P s)⟩

/-- An append lengthens the sink by a packet; an amend rewrites its last 80 samples, and leaves its length. -/
theorem Action.onSink_length {P : Params} {s : State} {a : Action} {t : Txn} (h : a.txn P s = some t)
    {content : List Sample} (long : half ≤ content.length) :
    (t.onSink content).length = content.length + 320 * if a.appends then 1 else 0 := by
  cases a with
  | append src =>
    cases h
    simp [Txn.onSink, Action.appends]
  | amend =>
    cases h
    simp only [half] at long
    simp [Txn.onSink, Action.appends, long, half]
  | _ => cases h

/-- A line whose transaction the sink takes appends what the line appends, if there is room for it. -/
theorem Action.sent_appends {P : Params} {s : State} {a : Action} {t : Txn} (h : a.txn P s = some t)
    (room : s.sinkPkts.toNat + (if a.appends then 1 else 0) ≤ s.sinkCap) :
    s.Appends (if a.appends then 1 else 0) (s.sent t) where
  counted := by
    refine State.sent_sinkPkts h ?_
    cases hap : a.appends with
    | false => exact .inr rfl
    | true => exact .inl (by simpa [hap] using room)
  lengthened long := by rw [s.sent_sink, Action.onSink_length h long]

/-- The room that is left after some packets is that for the packets still to come. -/
theorem State.Appends.room {m n : Nat} {s u : State} (h : s.Appends m u) (same : s.SameHostSide u)
    (room : s.sinkPkts.toNat + (n + m) ≤ s.sinkCap) : u.sinkPkts.toNat + n ≤ u.sinkCap := by
  rw [h.counted, State.sinkCap, same.sinkCapLessOne]
  rw [State.sinkCap] at room
  omega

/-- A run of lines that has ended has appended the packets of its lines, if there was room for them. -/
theorem runActions_appends (P : Params) {lines : List Action} {s : State}
    (room : s.sinkPkts.toNat + packetsIn lines ≤ s.sinkCap) (ended : (runActions P lines s).work = none) :
    s.Appends (packetsIn lines) (runActions P lines s) := by
  induction lines generalizing s with
  | nil => exact ⟨rfl, fun _ => rfl⟩
  | cons a rest ih =>
    rw [packetsIn_cons] at room ⊢
    rw [Nat.add_comm (packetsIn rest)]
    cases ht : a.txn P s with
    | none =>
      rw [runActions_line rest ht] at ended ⊢
      have line := Action.perform_appends ht
      exact line.trans (ih (line.room (a.perform_sameHostSide P s) room) ended)
    | some t =>
      simp only [runActions, ht] at ended ⊢
      cases hs : s.acceptance with
      | none => simp [hs] at ended
      | some s' =>
        simp only [hs, State.acceptance_transact hs] at ended ⊢
        have taken := Action.sent_appends ht (by omega)
        exact taken.trans (ih (taken.room (s.sent_sameHostSide t) room) ended)

/-- Settles O15: the run of ARRIVE's lines, which append `g + 1` packets under every strategy. -/
theorem everyStrategyAppendsGapPlusOne : Obligations.EveryStrategyAppendsGapPlusOne := by
  intro s t order room e ended
  cases e
  rw [arrive_of_room Config.params order room] at ended ⊢
  rw [← packetsIn_arriveActions s.gap s.strategy s.seqno] at room
  have appended := runActions_appends Config.params room ended
  rw [packetsIn_arriveActions] at appended
  exact ⟨appended.counted, appended.lengthened⟩

end Sys2Proof.Machine
end

section
/-! SUPPORT. The receiver's commands: NOP, CLEAR, ARRIVE's errors, and an ARRIVE with no gap (44_receiver.md R182 to
R186). -/

namespace Sys2Proof.Machine

/-! ### NOP and CLEAR -/

/-- Settles O8: NOP's meaning is the completion. -/
theorem nopOnlyCompletes : Obligations.NopOnlyCompletes := fun _ => rfl

/-- Settles O9: CLEAR's meaning is the end of the session and the completion. -/
theorem clearEndsTheSession : Obligations.ClearEndsTheSession := fun _ => rfl

/-! ### ARRIVE's errors -/

theorem State.outOfOrder_eq_false_iff {s : State} :
    s.outOfOrder = false ↔ s.rsState = .empty ∨ s.prevSeqno.toNat < s.seqno.toNat := by
  cases h : s.rsState <;> simp [State.outOfOrder, h]

theorem arrive_outOfOrder (P : Params) {s : State} (order : s.outOfOrder = true) :
    arrive P s = s.raiseError .seqOrder :=
  if_pos order

theorem arrive_full (P : Params) {s : State} (order : s.outOfOrder = false)
    (full : s.sinkCap < s.sinkPkts.toNat + (s.gap + 1)) : arrive P s = s.raiseError .sinkFull := by
  rw [arrive, order, State.hasRoom_eq_false_iff.2 full]
  rfl

/-- Settles O10: the order is checked before the room, and the room is that for `g + 1` packets
(60_exceptions.md R204). -/
theorem arriveRaisesItsErrors : Obligations.ArriveRaisesItsErrors := by
  intro s failed
  refine ⟨fun tracking late => ?_, fun empty full => ?_, fun tracking inOrder full => ?_⟩
  · exact congrArg Host.Outcome.next (arrive_outOfOrder _ (State.outOfOrder_iff.2 ⟨tracking, late⟩))
  · refine congrArg Host.Outcome.next (arrive_full _ (State.outOfOrder_eq_false_iff.2 (.inl empty)) ?_)
    rwa [State.gap_of_empty empty]
  · refine congrArg Host.Outcome.next (arrive_full _ (State.outOfOrder_eq_false_iff.2 (.inr inOrder)) ?_)
    rwa [State.gap_of_tracking tracking]

/-! ### The lines that append IN and retain it -/

@[simp] theorem State.inRegion_length (s : State) : s.inRegion.length = 320 := s.samples_length inBase pkt

theorem State.samples_storeSamples_of_length (s : State) {start n : Nat} {xs : List Sample} (hn : xs.length = n) :
    (s.storeSamples start xs).samples start n = xs := by
  subst hn
  exact s.samples_storeSamples_same start xs

/-- An append leaves IN as it is: it writes TAIL only. -/
theorem State.sent_append_inRegion (s : State) {p : List Sample} (hp : p.length = 320) :
    (s.sent (.append p)).inRegion = s.inRegion :=
  s.sent_samples (by rintro xs (e | e) <;> cases e; exact hp.le) (by rintro xs e; cases e) (.inl (by decide))

@[simp] theorem State.retain_inRegion (s : State) (seqno gap : Word) :
    (s.retain seqno gap).inRegion = s.inRegion :=
  State.samples_storeSamples_disjoint s (.inl (by decide))

@[simp] theorem State.retain_prevRegion (s : State) (seqno gap : Word) :
    (s.retain seqno gap).prevRegion = s.inRegion :=
  State.samples_storeSamples_of_length s s.inRegion_length

/-- The state to which an ARRIVE runs when IN is all that is left to append. -/
def State.arrived (s : State) (seqno gap : Word) : State :=
  ((s.sent (.append s.inRegion)).retain seqno gap).complete

/-- ARRIVE's last two lines: the append of IN waits for the sink, or the arrival is retained and ARRIVE completes. -/
theorem runActions_appendRetain (P : Params) (s : State) (seqno gap : Word) :
    (s.sinkAccepts ≠ some 0 ∧
      runActions P [.append .input, .retain seqno gap] s = s.arrived seqno gap) ∨
    (s.sinkAccepts = some 0 ∧ (runActions P [.append .input, .retain seqno gap] s).work ≠ none) := by
  have issued : Action.txn P s (.append .input) = some (.append s.inRegion) := rfl
  cases hs : s.acceptance with
  | none =>
    have withheld := State.acceptance_none.1 hs
    exact .inr ⟨withheld, by rw [runActions_withheld _ issued withheld]; exact Option.some_ne_none _⟩
  | some s' =>
    refine .inl ⟨(State.acceptance_some hs).1, ?_⟩
    simp only [runActions, issued, hs, State.acceptance_transact hs]
    rfl

/-- IN and PREV then both hold the packet that the append has sent (44_receiver.md R181). -/
theorem State.arrived_regions (s : State) (seqno gap : Word) :
    (s.arrived seqno gap).inRegion = s.inRegion ∧ (s.arrived seqno gap).prevRegion = s.inRegion ∧
      (s.arrived seqno gap).trace = s.trace ++ [.append s.inRegion] := by
  have input := s.sent_append_inRegion s.inRegion_length
  exact ⟨(State.retain_inRegion _ seqno gap).trans input, (State.retain_prevRegion _ seqno gap).trans input, rfl⟩

/-! ### ARRIVE with no gap -/

/-- With no gap ARRIVE appends IN and retains it, whatever the strategy (44_receiver.md R182, R183). -/
theorem arrive_of_no_gap (P : Params) {s : State} (order : s.outOfOrder = false) (gap : s.gap = 0)
    (room : s.sinkPkts.toNat + 1 ≤ s.sinkCap) (willing : s.willAccept 1) :
    arrive P s = s.arrived s.seqno 0 := by
  rw [arrive_of_room P order (by rwa [gap]), gap]
  obtain ⟨-, e⟩ | ⟨withheld, -⟩ := runActions_appendRetain P s s.seqno 0
  · exact e
  · exact absurd (willing 0 withheld) (by decide)

/-- The whole state after the append of IN and its retention. -/
theorem State.arrived_eq (s : State) (seqno gap : Word) :
    s.arrived seqno gap =
      { (s.storeSamples tailBase (s.inRegion.drop 240)).storeSamples prevBase s.inRegion with
        sink := s.sink ++ s.inRegion
        trace := s.trace ++ [.append s.inRegion]
        sinkAccepts := s.acceptsAfter 1
        sinkPkts := s.sinkPkts + 1
        prevSeqno := seqno
        gaplen := gap
        rsState := .tracking
        done := true
        busy := false
        pending := none
        work := none
        port := none } := by
  rw [State.arrived, State.retain, s.sent_append_inRegion s.inRegion_length]
  rfl

/-- Settles O11: both forms are in order and find no gap, and the state is that of `State.arrived_eq`. -/
theorem arriveWithoutGapAppendsIn : Obligations.ArriveWithoutGapAppendsIn := by
  intro s session room willing
  have order : s.outOfOrder = false :=
    State.outOfOrder_eq_false_iff.2 (session.imp_right fun ⟨_, successor⟩ => by omega)
  have gap : s.gap = 0 := by
    obtain empty | ⟨tracking, successor⟩ := session
    · exact State.gap_of_empty empty
    · rw [State.gap_of_tracking tracking]; omega
  exact congrArg Host.Outcome.next
    ((arrive_of_no_gap Config.params order gap room willing).trans (s.arrived_eq s.seqno 0))

end Sys2Proof.Machine
end

section
/-! SUPPORT. What an ARRIVE that has run to its end retains, whatever the sink has delayed and the strategy has filled
(44_receiver.md R181; 10_state.md R36, R41). -/

namespace Sys2Proof.Machine

/-! ### IN under an ARRIVE -/

theorem State.samples_congr_of_byteAt {s t : State} {start n : Nat}
    (same : ∀ x, inSamples start n x → t.byteAt x = s.byteAt x) : t.samples start n = s.samples start n := by
  refine List.map_congr_left fun k hk => ?_
  have hk := List.mem_range.1 hk
  rw [State.sampleAt, State.sampleAt, same _ (by simp only [inSamples, sampleOffset]; omega),
    same _ (by simp only [inSamples, sampleOffset]; omega)]

theorem State.inRegion_drop_half (s : State) : s.inRegion.drop half = s.samples half (pkt - half) := by
  refine List.ext_getElem (by simp [State.inRegion]) fun k h1 h2 => ?_
  simp [State.inRegion]

/-- The region `SRAM[a..a+n)` shares no byte with `SRAM[b..b+m)`. -/
theorem not_inSamples_of_disjoint {a n b m x : Nat} (h : inSamples a n x) (disjoint : a + n ≤ b ∨ b + m ≤ a) :
    ¬ inSamples b m x := by
  simp only [inSamples, sampleOffset] at h ⊢
  omega

/-- No ARRIVE writes IN past its first 80 samples (10_state.md R41). -/
theorem arrive_inRegion_drop_half (P : Params) (s : State) :
    (arrive P s).inRegion.drop half = s.inRegion.drop half := by
  rw [State.inRegion_drop_half, State.inRegion_drop_half]
  refine State.samples_congr_of_byteAt fun x hx => arrive_byteAt P s ?_ ?_ ?_
  · exact not_inSamples_of_disjoint hx (.inl (by decide))
  · exact not_inSamples_of_disjoint hx (.inr (by decide))
  · exact not_inSamples_of_disjoint hx (.inl (by decide))

/-- Only RepeatBoth smooths IN, and only where it fills a gap (43_concealment.md R162 to R168). -/
theorem splice_input_not_mem_arriveActions {g : Nat} {st : Strategy} (h : g = 0 ∨ st ≠ .repeatBoth) (seqno : Word) :
    .splice .input ∉ arriveActions g st seqno := by
  obtain rfl | gap := Nat.eq_zero_or_pos g
  · simp [arriveActions]
  · have unsmoothed : st ≠ .repeatBoth := h.resolve_left (by omega)
    rw [arriveActions_eq_arrivalLines, arrivalLines_unsmoothed gap unsmoothed]
    cases st with
    | silence => simp [fillGap, silenceFill, silencePackets]
    | repeatPrevious => simp [fillGap, repeatPrev, silencePackets]
    | repeatNext => simp [fillGap, repeatNext, silencePackets]
    | repeatBoth => exact absurd rfl unsmoothed
    | spectralInterpolate => simp [fillGap, spectral]

theorem arriveActions_inRegion (P : Params) (s : State) {g : Nat} {st : Strategy} (h : g = 0 ∨ st ≠ .repeatBoth)
    (seqno : Word) : (runActions P (arriveActions g st seqno) s).inRegion = s.inRegion := by
  refine State.samples_congr_of_byteAt fun x hx => runActions_byteAt P s ?_ ?_ ?_
  · exact not_inSamples_of_disjoint hx (.inl (by decide))
  · exact fun splice => absurd splice (splice_input_not_mem_arriveActions h seqno)
  · exact fun _ _ _ => not_inSamples_of_disjoint hx (.inl (by decide))

/-! ### The end of the run -/

/-- Whatever the gap and the strategy, the append of IN is the last line before the arrival is retained
(44_receiver.md R180). -/
theorem arrivalLines_end (g : Nat) (st : Strategy) : ∃ front, arrivalLines g st = front ++ [.append .input] := by
  obtain rfl | gap := Nat.eq_zero_or_pos g
  · exact ⟨[], rfl⟩
  by_cases smoothing : st = .repeatBoth
  · subst smoothing
    have smooth : smoothJ .input = [.filter .input, .amend, .splice .input] ++ [.append .input] := rfl
    match g with
    | 1 => exact ⟨.bridge :: smoothJ .scratch ++ [.filter .input, .amend, .splice .input], rfl⟩
    | n + 2 =>
      rw [arrivalLines_repeatBothMany, repeatBothMany_eq, smooth, ← List.append_assoc]
      exact ⟨_, rfl⟩
  · exact ⟨_, arrivalLines_unsmoothed gap smoothing⟩

/-- A run that has ended has been through its first lines, and has gone on with the others. -/
theorem runActions_reaches (P : Params) (front rest : List Action) {s : State}
    (ended : (runActions P (front ++ rest) s).work = none) :
    ∃ u, runActions P (front ++ rest) s = runActions P rest u := by
  induction front generalizing s with
  | nil => exact ⟨s, rfl⟩
  | cons a front ih =>
    simp only [List.cons_append, runActions] at ended ⊢
    split at ended
    · exact ih ended
    · split at ended
      · exact ih ended
      · cases ended

/-- An ARRIVE's lines that have run to their end have, last of all, appended IN and retained it. -/
theorem runActions_arriveActions_ended (P : Params) {g : Nat} {st : Strategy} {seqno : Word} {s : State}
    (ended : (runActions P (arriveActions g st seqno) s).work = none) :
    ∃ u, runActions P (arriveActions g st seqno) s = State.arrived u seqno (BitVec.ofNat 32 g) := by
  obtain ⟨front, last⟩ := arrivalLines_end g st
  rw [arriveActions_eq_arrivalLines, last, List.append_assoc] at ended ⊢
  obtain ⟨u, reached⟩ := runActions_reaches P front _ ended
  rw [reached] at ended ⊢
  obtain ⟨-, e⟩ | ⟨-, waits⟩ := runActions_appendRetain P u seqno (BitVec.ofNat 32 g)
  · exact ⟨u, e⟩
  · exact absurd ended waits

theorem State.gap_lt (s : State) : s.gap < 2 ^ 32 := by
  have := s.seqno.isLt
  cases h : s.rsState with
  | empty => simp [State.gap_of_empty h]
  | tracking => rw [State.gap_of_tracking h]; omega

/-- Settles O16: the end of the run is `State.arrived`, and the frame of the lines says what IN keeps. -/
theorem arriveRetainsTheArrival : Obligations.ArriveRetainsTheArrival := by
  intro s t order room e ended
  cases e
  have tailOfIn := arrive_inRegion_drop_half Config.params s
  rw [arrive_of_room Config.params order room] at ended tailOfIn ⊢
  have unsmoothed := fun h => arriveActions_inRegion Config.params s (g := s.gap) (st := s.strategy) h s.seqno
  obtain ⟨u, arrived⟩ := runActions_arriveActions_ended Config.params ended
  rw [arrived] at tailOfIn unsmoothed ⊢
  obtain ⟨input, prev, trace⟩ := u.arrived_regions s.seqno (BitVec.ofNat 32 s.gap)
  refine ⟨rfl, rfl, ?_, prev.trans input.symm, ?_, tailOfIn, unsmoothed⟩
  · exact (BitVec.toNat_ofNat ..).trans (Nat.mod_eq_of_lt s.gap_lt)
  · rw [trace, input, List.getLast?_concat]

end Sys2Proof.Machine
end

section
/-! SUPPORT. STRATEGY during a session: what the engine, the host and `rst_n` do to it (44_receiver.md R187;
10_state.md R33). -/

namespace Sys2Proof.Machine

/-- The engine writes STRATEGY at no turn. -/
theorem engineMoves_strategy {s t : State} (e : engineMoves s = .next t) : t.strategy = s.strategy := by
  cases hr : s.rstAsserted with
  | true => rw [engineMoves_asserted hr] at e; cases e; rfl
  | false =>
    rw [engineMoves_released hr] at e
    obtain ⟨-, e'⟩ | ⟨lines, -, -, e'⟩ | ⟨w, i, -, -, -, -, e'⟩ | ⟨w, x, -, -, -, -, e'⟩ | ⟨-, -, -, e'⟩ :=
      engineTurn_cases s <;> rw [e'] at e
    · cases e; rfl
    · cases e; exact (runActions_sameHostSide _ lines s).strategy
    · obtain same | ⟨code, rfl⟩ := exec_sameHostSide e
      · exact same.strategy
      · rfl
    · cases e; rfl
    · cases e

/-- In Tracking a write of STRATEGY is ignored, and no other register write touches it (10_state.md R33). -/
theorem State.writeReg_strategy {s : State} (tracking : s.rsState = .tracking) (v : Word) (r : Reg) :
    (s.writeReg v r).strategy = s.strategy := by
  cases r with
  | strategy =>
    show (s.writeStrategy v).strategy = s.strategy
    rw [State.writeStrategy_ignored (.inl tracking)]
  | _ => rfl

theorem State.hostAccess_strategy {s : State} (tracking : s.rsState = .tracking) (a : Access) :
    (s.hostAccess a).strategy = s.strategy := by
  obtain ⟨-, e⟩ | ⟨-, -, -, e⟩ | ⟨-, -, e⟩ := s.hostAccess_cases a <;> rw [e]
  · show (s.perform a).1.strategy = s.strategy
    obtain ⟨-, e⟩ | ⟨-, e⟩ | ⟨r, v, -, -, e⟩ := s.perform_cases a <;> rw [e]
    exact State.writeReg_strategy tracking v r

/-- A block that is in Tracking after a host access was not held in reset. -/
theorem State.held_of_tracking {s : State} (tracking : s.held.rsState = .tracking) : s.held = s := by
  cases hr : s.rstAsserted with
  | true => rw [State.held_asserted hr] at tracking; cases tracking
  | false => exact State.held_released hr

/-- A block that is in Tracking after `rst_n` is driven to 0 was held already. -/
theorem State.assertReset_of_tracking {s : State} {kept : Bool}
    (tracking : (s.assertReset kept).rsState = .tracking) : s.assertReset kept = s := by
  cases hr : s.rstAsserted with
  | true => exact State.assertReset_asserted hr kept
  | false => obtain ⟨-, e⟩ | ⟨x, -, -, e⟩ := State.assertReset_cases hr kept <;> (rw [e] at tracking; cases tracking)

/-- A block that is in Tracking after `rst_n` is driven to 1 was not held in reset. -/
theorem State.releaseReset_of_tracking {s : State} {bytes : List Byte}
    (tracking : (s.releaseReset bytes).rsState = .tracking) : s.releaseReset bytes = s := by
  cases hr : s.rstAsserted with
  | true => rw [State.releaseReset_asserted hr] at tracking; cases tracking
  | false => exact State.releaseReset_released hr bytes

theorem State.hostAccess_held_strategy {s : State} (tracking : s.rsState = .tracking) {a : Access}
    (tracking' : (s.hostAccess a).held.rsState = .tracking) : (s.hostAccess a).held.strategy = s.strategy := by
  rw [State.held_of_tracking tracking']
  exact State.hostAccess_strategy tracking a

/-- A move that leaves the block in Tracking leaves STRATEGY alone. -/
theorem takeEvent_strategy {e : Event} {s t : State} (ht : takeEvent e s = .next t) (tracking : s.rsState = .tracking)
    (tracking' : t.rsState = .tracking) : t.strategy = s.strategy := by
  cases e with
  | engine => exact engineMoves_strategy ht
  | host a => cases ht; exact State.hostAccess_held_strategy tracking tracking'
  | poll =>
    cases ht
    cases hb : s.busy <;> (rw [hb] at tracking'; exact State.hostAccess_held_strategy tracking tracking')
  | sinkWilling limit => cases ht; rfl
  | newSink content => cases ht; rfl
  | assertReset kept => cases ht; rw [State.assertReset_of_tracking tracking']
  | releaseReset bytes => cases ht; rw [State.releaseReset_of_tracking tracking']

/-- Settles O56: a step is the engine's move, or the next listed one. -/
theorem strategyIsLockedDuringASession : Obligations.StrategyIsLockedDuringASession := by
  intro s t e tracking tracking'
  cases hi : s.inputs with
  | nil =>
    rw [step_unlisted hi] at e
    exact engineMoves_strategy e
  | cons move rest =>
    rw [step_listed hi] at e
    exact takeEvent_strategy (s := { s with inputs := rest }) e tracking tracking'

end Sys2Proof.Machine
end

section
/-! SUPPORT. Runs and turns: what every step keeps holds along a run, the turn that begins a command, the idle turn, and
the CMD write that starts a command (60_exceptions.md R205, R218). -/

namespace Sys2Proof.Machine

/-- A step that answers a next state is the first of a longer run. -/
theorem core_run_succ {s u : State} (h : step s = .next u) (k : Nat) : core.run (k + 1) s = core.run k u := by
  have stepped : core.step s = .next u := h
  simp only [Host.Core.run, stepped]

/-- A property from which a step answers a state that has it again is one that no run loses, and no such run stops. -/
theorem core_run_keeps {Q : State → Prop} (keeps : ∀ s, Q s → ∃ t, step s = .next t ∧ Q t) (k : Nat) {s : State}
    (h : Q s) : ∃ t, core.run k s = .next t ∧ Q t := by
  induction k generalizing s with
  | zero => exact ⟨s, rfl, h⟩
  | succ k ih =>
    obtain ⟨u, hu, hQ⟩ := keeps s h
    obtain ⟨t, ht, hQt⟩ := ih hQ
    exact ⟨t, (core_run_succ hu k).trans ht, hQt⟩

/-! ### A command begins -/

/-- The engine's turn begins the latched command (60_exceptions.md R205). -/
theorem engineTurn_begins {s : State} {w : Word} {i : Instr} (busy : s.busy = true) (hw : s.work = none)
    (hp : s.pending = some w) (decodes : decodeWord w = .ok i) : engineTurn s = exec i s := by
  simp [engineTurn, busy, hw, hp, decodes]

/-- Settles O4: the step is the engine's turn, listed or not, and that begins the latched command. -/
theorem stepRunsTheLatchedCommand : Obligations.StepRunsTheLatchedCommand := by
  intro s w i rest released busy hw hp decodes
  refine ⟨fun listed => ?_, fun unlisted => ?_⟩
  · calc step s = engineMoves { s with inputs := rest } := step_listed listed
      _ = engineTurn { s with inputs := rest } := engineMoves_released released
      _ = exec i { s with inputs := rest } := engineTurn_begins busy hw hp decodes
  · calc step s = engineMoves s := step_unlisted unlisted
      _ = engineTurn s := engineMoves_released released
      _ = exec i s := engineTurn_begins busy hw hp decodes

/-- A 32-bit table word is the command word itself. -/
theorem tableWord_toNat (w : Word) : tableWord 32 w.toNat = w := by
  rw [tableWord, Nat.mod_eq_of_lt w.isLt, BitVec.ofNat_toNat, BitVec.setWidth_eq]

/-- Settles O5: the placed word is latched with the engine to move next, so O4 says what runs. -/
theorem placedCommandRunsNext : Obligations.PlacedCommandRunsNext := by
  intro s i
  obtain ⟨listed, -⟩ := stepRunsTheLatchedCommand (latchForEngine s (encode i)) (encode i) i s.inputs
    rfl rfl rfl rfl (decodeWord_encode i)
  rw [State.withFetchWord, tableWord_toNat]
  exact listed rfl

/-- Settles O47: a CMD write that is not refused is `State.startCommand`. -/
theorem cmdWriteStartsTheCommand : Obligations.CmdWriteStartsTheCommand := fun s v idle =>
  s.hostAccess_reg_write (r := .cmd) rfl v (.inl idle)

/-! ### The idle engine -/

/-- While BUSY is 0 the engine's move changes nothing, at either level of `rst_n` (60_exceptions.md R218). -/
theorem engineMoves_idle {s : State} (idle : s.busy = false) : engineMoves s = .next s := by
  cases hr : s.rstAsserted with
  | true => exact engineMoves_asserted hr
  | false => rw [engineMoves_released hr]; simp [engineTurn, idle]

/-- Settles O7: the idle turn, and by it a run from reset, where no move is listed. -/
theorem idleEngineChangesNothing : Obligations.IdleEngineChangesNothing := by
  refine ⟨fun s rest idle listed => ?_, fun s idle unlisted => ?_, fun k => ?_⟩
  · exact (step_listed listed).trans (engineMoves_idle idle)
  · exact (step_unlisted unlisted).trans (engineMoves_idle idle)
  · have waits : step State.reset = .next State.reset := (step_unlisted rfl).trans (engineMoves_idle rfl)
    obtain ⟨t, ht, rfl⟩ := core_run_keeps (Q := (· = State.reset)) (fun s h => ⟨_, h ▸ waits, rfl⟩) k rfl
    exact ht

end Sys2Proof.Machine
end

section
/-! SUPPORT. How a command ends: with an error that changes nothing else, completed, or waiting for the sink; and that the
machine always answers a next state (60_exceptions.md R203, R206, R221). -/

namespace Sys2Proof.Machine

/-! ### Errors -/

/-- A command leaves ERR as it is, or fails with one of the codes a legal command has (60_exceptions.md R203). -/
theorem exec_err {i : Instr} {s t : State} (e : exec i s = .next t) :
    t.err = s.err ∨ ∃ code, code ≠ .none ∧ code ≠ .illegalCmd ∧ t = s.raiseError code := by
  obtain ⟨-, e'⟩ | ⟨-, e'⟩ | ⟨start, xs, -, -, e'⟩ | ⟨w, -, -, e'⟩ | ⟨code, failed, legal, e'⟩ | ⟨lines, -, -, e'⟩ :=
    exec_cases i s <;> (rw [e'] at e; cases e)
  · exact .inl rfl
  · exact .inl rfl
  · exact .inl rfl
  · exact .inl rfl
  · exact .inr ⟨code, failed, legal, rfl⟩
  · exact .inl (runActions_sameHostSide _ lines s).err

/-- Settles O34: a command that raises ERR is one of the failures of `exec_err`. -/
theorem commandErrorsArePrecise : Obligations.CommandErrorsArePrecise := by
  intro i s t e before after
  obtain same | ⟨code, failed, legal, rfl⟩ := exec_err e
  · rw [same, before] at after; cases after
  · exact ⟨code, failed, legal, rfl⟩

/-! ### Completion and waiting -/

/-- The command has completed: DONE is 1 and BUSY 0, and nothing is latched, waits or is issued (60_exceptions.md R206). -/
def State.Completed (t : State) : Prop :=
  t.done = true ∧ t.busy = false ∧ t.pending = none ∧ t.work = none ∧ t.port = none

/-- The command begun in `s` waits in `t`, with a transaction issued to a sink that accepts none (60_exceptions.md R222). -/
def State.WaitsIn (s t : State) : Prop :=
  t.done = s.done ∧ t.busy = s.busy ∧ t.pending = s.pending ∧ t.work.isSome = true ∧ t.port.isSome = true ∧
    t.sinkAccepts = some 0

theorem State.complete_completed (s : State) : s.complete.Completed := ⟨rfl, rfl, rfl, rfl, rfl⟩

/-- Waiting is the same for a state with the same DONE, BUSY and latched word. -/
theorem State.WaitsIn.of_same {s u t : State} (h : u.WaitsIn t) (done : u.done = s.done) (busy : u.busy = s.busy)
    (pending : u.pending = s.pending) : s.WaitsIn t := by
  obtain ⟨hdone, hbusy, hpending, place⟩ := h
  exact ⟨hdone.trans done, hbusy.trans busy, hpending.trans pending, place⟩

/-- A run of lines completes, or waits for the sink. -/
theorem runActions_completes_or_waits (P : Params) (lines : List Action) (s : State) :
    (runActions P lines s).Completed ∨ s.WaitsIn (runActions P lines s) := by
  induction lines generalizing s with
  | nil => exact .inl s.complete_completed
  | cons a rest ih =>
    simp only [runActions]
    split
    · obtain ⟨hbusy, hdone, hpending, -⟩ := a.perform_keeps P s
      exact (ih _).imp_right (·.of_same hdone hbusy hpending)
    · next t _ =>
      split
      · next s' hs =>
        rw [State.acceptance_transact hs]
        obtain ⟨hbusy, hdone, hpending, -⟩ := s.sent_keeps t
        exact (ih _).imp_right (·.of_same hdone hbusy hpending)
      · next withheld =>
        have sink : s.sinkAccepts = some 0 := State.acceptance_none.1 withheld
        exact .inr ⟨rfl, rfl, rfl, rfl, rfl, sink⟩

/-- Settles O35: every command completes at once, but those whose lines may wait for the sink. -/
theorem everyCommandCompletesOrWaits : Obligations.EveryCommandCompletesOrWaits := by
  intro i s
  obtain ⟨-, e⟩ | ⟨-, e⟩ | ⟨start, xs, -, -, e⟩ | ⟨w, -, -, e⟩ | ⟨code, -, -, e⟩ | ⟨lines, -, -, e⟩ := exec_cases i s
  · exact ⟨_, e, .inl (State.complete_completed _)⟩
  · exact ⟨_, e, .inl (State.complete_completed _)⟩
  · exact ⟨_, e, .inl (State.complete_completed _)⟩
  · exact ⟨_, e, .inl (State.complete_completed _)⟩
  · exact ⟨_, e, .inl (State.complete_completed _)⟩
  · exact ⟨_, e, runActions_completes_or_waits _ lines s⟩

/-! ### No fault and no refusal -/

/-- The engine's turn from a good state does not fault: while BUSY a word is latched (10_state.md R45). -/
theorem State.Good.engineMoves_answers {s : State} (h : s.Good) : ∃ t, engineMoves s = .next t := by
  cases hr : s.rstAsserted with
  | true => exact ⟨s, engineMoves_asserted hr⟩
  | false =>
    rw [engineMoves_released hr]
    obtain ⟨-, e⟩ | ⟨lines, -, -, e⟩ | ⟨w, i, -, -, -, -, e⟩ | ⟨w, x, -, -, -, -, e⟩ | ⟨busy, -, hp, -⟩ :=
      engineTurn_cases s
    · exact ⟨_, e⟩
    · exact ⟨_, e⟩
    · obtain ⟨t, ht, -⟩ := everyCommandCompletesOrWaits i s
      exact ⟨t, e.trans ht⟩
    · exact ⟨_, e⟩
    · have latched := h.latched
      rw [busy, hp] at latched
      cases latched

/-- A step from a good state answers a next state, whatever the move. -/
theorem State.Good.step_answers {s : State} (h : s.Good) : ∃ t, step s = .next t := by
  cases hi : s.inputs with
  | nil => rw [step_unlisted hi]; exact h.engineMoves_answers
  | cons move rest =>
    rw [step_listed hi]
    cases move with
    | engine => exact (h.with_world rest s.sink s.sinkAccepts).engineMoves_answers
    | _ => exact ⟨_, rfl⟩

/-- Settles O55: a step from a good state answers, and O54 says that it answers a good state. -/
theorem goodMachineNeverStops : Obligations.GoodMachineNeverStops := fun _ k good =>
  core_run_keeps (fun s h => by
    obtain ⟨t, ht⟩ := h.step_answers
    exact ⟨t, ht, everyStepKeepsGood s t h ht⟩) k good

end Sys2Proof.Machine
end

section
/-! SUPPORT. What host accesses cannot do: change `irq` by a refusal, a read or an access to STRATEGY, or free a command
that waits for a sink which accepts nothing (60_exceptions.md R211, R222). -/

namespace Sys2Proof.Machine

/-! ### `irq` -/

/-- A write of STRATEGY, taken or ignored, leaves `irq` alone (60_exceptions.md R211). -/
theorem State.writeStrategy_irq (s : State) (v : Word) : (s.writeStrategy v).irq = s.irq := by
  obtain ⟨st, -, -, e⟩ | ⟨-, e⟩ := s.writeStrategy_cases v <;> (rw [e]; rfl)

/-- No two registers stand at one offset (10_state.md R26). -/
theorem Reg.eq_of_offset_eq {q r : Reg} (h : q.offset = r.offset) : q = r :=
  Option.some.inj ((regAt_eq_some.2 h).symm.trans (regAt_eq_some.2 rfl))

/-- An access at STRATEGY's offset that is performed leaves `irq` alone. -/
theorem State.perform_strategy_irq (s : State) {a : Access} (ho : a.offset = 0x014) : (s.perform a).1.irq = s.irq := by
  have hoff : a.offset.toNat = 0x014 := by rw [ho]; rfl
  obtain ⟨hs, -⟩ | ⟨-, e⟩ | ⟨r, v, hr, -, e⟩ := s.perform_cases a
  · omega
  · rw [e]
  · obtain rfl : r = .strategy := Reg.eq_of_offset_eq (hr.symm.trans hoff)
    rw [e]
    exact s.writeStrategy_irq v

/-- Settles O49: a bus error and a refusal touch neither term of `irq`, and an access that is performed is at STRATEGY or
reads. -/
theorem refusalsNeverChangeIrq : Obligations.RefusalsNeverChangeIrq := by
  intro s a h
  obtain ⟨-, e⟩ | ⟨-, -, -, e⟩ | ⟨legal, allowed, e⟩ := s.hostAccess_cases a <;> rw [e]
  · rfl
  · rfl
  · show (s.perform a).1.irq = s.irq
    obtain illegal | ⟨busy, refused⟩ | ho | hd := h
    · rw [legal] at illegal; cases illegal
    · simp [busy, refused] at allowed
    · exact s.perform_strategy_irq ho
    · rw [State.perform_read s hd]

/-! ### A command that hangs -/

/-- The command in flight waits at a transaction, the sink accepts none, no move to come ends that, and these are the
transactions accepted so far (60_exceptions.md R222). -/
structure State.Hangs (s : State) (accepted : List Txn) : Prop where
  released : s.rstAsserted = false
  busy : s.busy = true
  done : s.done = false
  err : s.err = false
  waits : ∃ a rest, s.work = some (a :: rest) ∧ a.issues = true
  withheld : s.sinkAccepts = some 0
  hopeless : ∀ e ∈ s.inputs, e.endsHang = false
  record : s.trace = accepted

theorem State.Hangs.irq {s : State} {x : List Txn} (h : s.Hangs x) : s.irq = false := by
  simp [State.irq, h.done, h.err]

/-- A line that issues a transaction has one to send. -/
theorem Action.exists_txn_of_issues (P : Params) (s : State) {a : Action} (h : a.issues = true) :
    ∃ t, a.txn P s = some t := by
  cases a with
  | append src => exact ⟨_, rfl⟩
  | amend => exact ⟨_, rfl⟩
  | _ => cases h

/-- The engine's move leaves a command that hangs where it is. -/
theorem State.Hangs.engineMoves_answers {s : State} {x : List Txn} (h : s.Hangs x) :
    ∃ t, engineMoves s = .next t ∧ t.Hangs x := by
  obtain ⟨a, rest, hw, issues⟩ := h.waits
  obtain ⟨t, ht⟩ := Action.exists_txn_of_issues Config.params s issues
  refine ⟨s.wait t (a :: rest), ?_, { h with waits := ⟨a, rest, rfl, issues⟩ }⟩
  rw [engineMoves_released h.released, engineTurn_waiting h.busy hw, runActions_withheld rest ht h.withheld]

/-- Writes of CTRL and STATUS, the only ones allowed while BUSY, free no command that hangs (20_memory.md R62). -/
theorem State.Hangs.writeReg {s : State} {x : List Txn} (h : s.Hangs x) {r : Reg} (writable : r.writableBusy = true)
    (v : Word) : (s.writeReg v r).Hangs x := by
  cases r with
  | ctrl => exact { h with }
  | status =>
    exact { h with
      done := by simp [State.writeReg, State.writeStatus, h.done]
      err := by simp [State.writeReg, State.writeStatus, h.err] }
  | _ => cases writable

/-- No host access frees a command that hangs. -/
theorem State.Hangs.hostAccess {s : State} {x : List Txn} (h : s.Hangs x) (a : Access) : (s.hostAccess a).Hangs x := by
  obtain ⟨-, e⟩ | ⟨-, -, -, e⟩ | ⟨-, allowed, e⟩ := s.hostAccess_cases a <;> rw [e]
  · exact { h with }
  · exact { h with }
  · have performed : (s.perform a).1.Hangs x := by
      obtain ⟨-, e'⟩ | ⟨-, e'⟩ | ⟨r, v, ho, hd, e'⟩ := s.perform_cases a <;> rw [e']
      · exact { h with }
      · exact h
      · have allowedBusy : a.allowedBusy = true := by simpa [h.busy] using allowed
        exact h.writeReg (Access.writableBusy_of_allowed ho hd allowedBusy) v
    exact { performed with }

/-- A poll adds itself and an engine's turn to the moves to come, and neither ends a hang. -/
theorem State.Hangs.poll_answers {s : State} {x : List Txn} (h : s.Hangs x) :
    ∃ t, takeEvent .poll s = .next t ∧ t.Hangs x := by
  refine ⟨_, takeEvent_poll h.released, { h with hopeless := ?_ }⟩
  rw [h.busy, if_pos rfl]
  intro e he
  obtain rfl | rfl | he : e = .engine ∨ e = .poll ∨ e ∈ s.inputs := by simpa using he
  · rfl
  · rfl
  · exact h.hopeless e he

/-- No move ends a hang but the sink's change of mind and the fall of `rst_n` (60_exceptions.md R222). -/
theorem State.Hangs.takeEvent_answers {s : State} {x : List Txn} (h : s.Hangs x) {e : Event} (he : e.endsHang = false) :
    ∃ t, takeEvent e s = .next t ∧ t.Hangs x := by
  cases e with
  | engine => exact h.engineMoves_answers
  | host a => exact ⟨_, takeEvent_host h.released a, h.hostAccess a⟩
  | poll => exact h.poll_answers
  | newSink content => exact ⟨_, rfl, { h with }⟩
  | releaseReset bytes => exact ⟨s, congrArg Host.Outcome.next (State.releaseReset_released h.released bytes), h⟩
  | sinkWilling limit => cases he
  | assertReset kept => cases he

theorem State.Hangs.step_answers {s : State} {x : List Txn} (h : s.Hangs x) : ∃ t, step s = .next t ∧ t.Hangs x := by
  cases hi : s.inputs with
  | nil => rw [step_unlisted hi]; exact h.engineMoves_answers
  | cons move rest =>
    have coming : ∀ e ∈ move :: rest, e.endsHang = false := hi ▸ h.hopeless
    rw [step_listed hi]
    exact State.Hangs.takeEvent_answers (s := { s with inputs := rest })
      { h with hopeless := fun e he => coming e (List.mem_cons_of_mem move he) } (coming move List.mem_cons_self)

/-- Settles O40: every step from a state that hangs leaves one that hangs, with DONE and `irq` 0. -/
theorem withheldSinkHangsTheCommand : Obligations.WithheldSinkHangsTheCommand := by
  intro s a rest released busy done err hw issues withheld hopeless k
  have hangs : s.Hangs s.trace :=
    ⟨released, busy, done, err, ⟨a, rest, hw, issues⟩, withheld, hopeless, rfl⟩
  obtain ⟨t, ht, h⟩ := core_run_keeps (fun _ (h : State.Hangs _ s.trace) => h.step_answers) k hangs
  exact ⟨t, ht, h.busy, h.done, h.irq, h.record⟩

end Sys2Proof.Machine
end

section
/-! SUPPORT. Reset as steps: the state after it, the block while `rst_n` is 0, and the fall and the rise of `rst_n`
(70_reset_and_hazards.md R230 to R232; 20_memory.md R75). -/

namespace Sys2Proof.Machine

/-- Settles O53: the state after reset is `State.underReset` with `rst_n` at 1. -/
theorem resetIsGood : Obligations.ResetIsGood :=
  State.reset.underReset_good false Memory.wf_nil none 0

/-! ### While `rst_n` is 0 -/

theorem State.Good.busy_of_asserted {s : State} (h : s.Good) (asserted : s.rstAsserted = true) : s.busy = false := by
  rw [h.held asserted]
  rfl

theorem State.Good.statusWord_of_asserted {s : State} (h : s.Good) (asserted : s.rstAsserted = true) :
    s.statusWord = 0#32 := by
  rw [h.held asserted]
  exact State.statusWord_zero rfl rfl rfl rfl rfl rfl rfl

/-- A host access to a held block leaves its answer and what it did in the sample memory (log 14). -/
theorem State.Good.hostAccess_held_of_asserted {s : State} (h : s.Good) (asserted : s.rstAsserted = true)
    (a : Access) :
    (s.hostAccess a).held =
      { s with response := (s.hostAccess a).response, sram := (s.hostAccess a).sram } := by
  rw [State.hostAccess_held asserted, ← h.held asserted]

/-- A poll of a held block is one read of STATUS, which reads 0 (log 23). -/
theorem State.Good.takeEvent_poll_of_asserted {s : State} (h : s.Good) (asserted : s.rstAsserted = true) :
    takeEvent .poll s = .next { s with response := some (.read32 0#32) } := by
  have read : (s.hostAccess rdStatus).held = { s with response := some (.read32 0#32) } := by
    rw [h.hostAccess_held_of_asserted asserted, State.hostAccess_rdStatus, h.statusWord_of_asserted asserted]
  simp [takeEvent, read, h.busy_of_asserted asserted]

/-- The rise of `rst_n` changes only the level, the sample memory and its counter. -/
theorem State.Good.releaseReset_of_asserted {s : State} (h : s.Good) (asserted : s.rstAsserted = true)
    (bytes : List Byte) :
    s.releaseReset bytes =
      { s with
        rstAsserted := false
        sram := Memory.write sramBase (bytes.take 4096) []
        resets := s.resets + 1 } := by
  rw [State.releaseReset_asserted asserted, ← h.held asserted]

/-! ### The fall of `rst_n` -/

/-- A step in which `rst_n` falls: the registers are at their reset values, and the sink is as it was, or has kept the
transaction it was receiving (log 8). -/
theorem step_assertReset_cases {s : State} {kept : Bool} {rest : List Event} (released : s.rstAsserted = false)
    (listed : s.inputs = .assertReset kept :: rest) :
    ((kept = false ∨ s.port = none) ∧
      step s = .next { s.underReset with inputs := rest, sram := [], resets := s.resets + 1 }) ∨
    (∃ x, kept = true ∧ s.port = some x ∧
      step s = .next { (s.sinkTakes x).underReset with inputs := rest, sram := [], resets := s.resets + 1 }) := by
  rw [step_listed listed]
  obtain ⟨lost, e⟩ | ⟨x, hk, hp, e⟩ := State.assertReset_cases (s := { s with inputs := rest }) released kept
  · exact .inl ⟨lost, congrArg Host.Outcome.next e⟩
  · exact .inr ⟨x, hk, hp, congrArg Host.Outcome.next e⟩

/-- Settles O52: the fall by `step_assertReset_cases`; every move while `rst_n` is 0 by the rule of that move for a held
block, which the moves to come do not touch. -/
theorem resetAbandonsTheCommandAndHoldsTheBlock : Obligations.ResetAbandonsTheCommandAndHoldsTheBlock := by
  refine ⟨fun s kept rest released listed => ?_, fun s rest good asserted => ?_⟩
  · obtain ⟨lost, e⟩ | ⟨x, hk, hp, e⟩ := step_assertReset_cases released listed
    · refine ⟨_, e, rfl, rfl, rfl, rfl, rfl, rfl, rfl, rfl, fun _ => ⟨rfl, rfl⟩, fun y hk hp => ?_⟩
      simp [hk, hp] at lost
    · refine ⟨_, e, rfl, rfl, rfl, rfl, rfl, rfl, rfl, rfl, fun lost => ?_, fun y _ hy => ?_⟩
      · simp [hk, hp] at lost
      · obtain rfl : x = y := Option.some.inj (hp.symm.trans hy)
        exact ⟨rfl, rfl⟩
  · have good' : State.Good { s with inputs := rest } := good.with_world rest s.sink s.sinkAccepts
    refine ⟨fun h => ?_, fun h => ?_, fun a h => ?_, fun h => ?_, fun bytes h => ?_⟩
    · exact (step_unlisted h).trans (engineMoves_asserted asserted)
    · exact (step_listed h).trans (engineMoves_asserted asserted)
    · have access := good'.hostAccess_held_of_asserted asserted a
      rw [State.hostAccess_inputs] at access
      rw [step_listed h, takeEvent, State.hostAccess_inputs, access]
    · exact (step_listed h).trans (good'.takeEvent_poll_of_asserted asserted)
    · exact (step_listed h).trans (congrArg Host.Outcome.next (good'.releaseReset_of_asserted asserted bytes))

end Sys2Proof.Machine
end
